-- ==== Sys2Proof/Word.lean ====
section
/-! DEFINITION. The word types of the machine and the plainest operations on them: bytes, 16-bit words,
splitting and joining a word (`hi : lo` of spec/00_scope.md section 6), and the type memory is held in. -/

namespace Sys2Proof

/-- `u8` of spec/00_scope.md section 6. -/
abbrev Byte := BitVec 8

/-- `u16` of spec/00_scope.md section 6: registers PC and SP, pairs, bus addresses. -/
abbrev Word := BitVec 16

/-- `hi : lo`, the concatenation with `hi` the more significant part (spec/00_scope.md section 6). -/
abbrev join (hi lo : Byte) : Word := hi ++ lo

/-- `v[15:8]`. -/
abbrev hiByte (v : Word) : Byte := v.extractLsb' 8 8

/-- `v[7:0]`. -/
abbrev loByte (v : Word) : Byte := v.extractLsb' 0 8

/-- Bytes at addresses, as a list of cells in the canonical form of `Memory.wf` (Machine/Memory.lean). -/
abbrev Memory := List Host.Cell

end Sys2Proof
end

