-- ==== Sys2Proof/Syntax.lean ====
section
/-! DEFINITION. The instruction set as syntax: one constructor of `Instr` per row of spec/opcode_table.json, named by the
row's mnemonic (the table's letters), and the names the operand codes stand for (spec/30_encoding.md R101 to R103).
An immediate is held as the bits the encoding gives it: `n` a u8 (R105), `e` the displacement byte, read as two's
complement by the jump (R106), `nn` a u16 (R107). -/

namespace Sys2Proof

/-- The seven 8-bit general registers (spec/10_state.md R20); `F` is not among them. -/
inductive Reg8 where
  | b | c | d | e | h | l | a
deriving DecidableEq, Repr

/-- An 8-bit operand `x[code]` of spec/30_encoding.md R101: a register, or code 6, the byte at address HL. -/
inductive Code8 where
  | reg (r : Reg8)
  | atHl
deriving DecidableEq, Repr

/-- The destination of `ld rr,nn` (spec/30_encoding.md R102). -/
inductive Pair where
  | bc | de | hl | sp
deriving DecidableEq, Repr

/-- The source of `push rr` (spec/30_encoding.md R102). -/
inductive PushPair where
  | bc | de | hl | af
deriving DecidableEq, Repr

/-- The four conditions of spec/30_encoding.md R103. -/
inductive Cond where
  | nz | z | nc | c
deriving DecidableEq, Repr

/-- The instructions: the 144 operations of spec/30_encoding.md R108 and the prefix byte of R110, a row of the opcode
table though not an operation. The docstring of each gives the spec's spelling, its opcode byte and its rule. -/
inductive Instr where
  /-- `ld bc,nn` (0x01), R159. -/
  | ld_bc_nn (nn : Word)
  /-- `ld (bc),a` (0x02), R155. -/
  | ld__bc__a
  /-- `ld b,n` (0x06), R157. -/
  | ld_b_n (n : Byte)
  /-- `ld a,(bc)` (0x0A), R153. -/
  | ld_a__bc
  /-- `ld c,n` (0x0E), R157. -/
  | ld_c_n (n : Byte)
  /-- `ld de,nn` (0x11), R159. -/
  | ld_de_nn (nn : Word)
  /-- `ld (de),a` (0x12), R156. -/
  | ld__de__a
  /-- `ld d,n` (0x16), R157. -/
  | ld_d_n (n : Byte)
  /-- `jr e` (0x18), R220. -/
  | jr_e (e : Byte)
  /-- `ld a,(de)` (0x1A), R154. -/
  | ld_a__de
  /-- `ld e,n` (0x1E), R157. -/
  | ld_e_n (n : Byte)
  /-- `jr nz,e` (0x20), R221. -/
  | jr_nz_e (e : Byte)
  /-- `ld hl,nn` (0x21), R159. -/
  | ld_hl_nn (nn : Word)
  /-- `ld h,n` (0x26), R157. -/
  | ld_h_n (n : Byte)
  /-- `jr z,e` (0x28), R221. -/
  | jr_z_e (e : Byte)
  /-- `ld l,n` (0x2E), R157. -/
  | ld_l_n (n : Byte)
  /-- `jr nc,e` (0x30), R221. -/
  | jr_nc_e (e : Byte)
  /-- `ld sp,nn` (0x31), R159. -/
  | ld_sp_nn (nn : Word)
  /-- `ld (hl),n` (0x36), R158. -/
  | ld__hl__n (n : Byte)
  /-- `jr c,e` (0x38), R221. -/
  | jr_c_e (e : Byte)
  /-- `ld a,n` (0x3E), R157. -/
  | ld_a_n (n : Byte)
  /-- `ld b,b` (0x40), R150. -/
  | ld_b_b
  /-- `ld b,c` (0x41), R150. -/
  | ld_b_c
  /-- `ld b,d` (0x42), R150. -/
  | ld_b_d
  /-- `ld b,e` (0x43), R150. -/
  | ld_b_e
  /-- `ld b,h` (0x44), R150. -/
  | ld_b_h
  /-- `ld b,l` (0x45), R150. -/
  | ld_b_l
  /-- `ld b,(hl)` (0x46), R151. -/
  | ld_b__hl
  /-- `ld b,a` (0x47), R150. -/
  | ld_b_a
  /-- `ld c,b` (0x48), R150. -/
  | ld_c_b
  /-- `ld c,c` (0x49), R150. -/
  | ld_c_c
  /-- `ld c,d` (0x4A), R150. -/
  | ld_c_d
  /-- `ld c,e` (0x4B), R150. -/
  | ld_c_e
  /-- `ld c,h` (0x4C), R150. -/
  | ld_c_h
  /-- `ld c,l` (0x4D), R150. -/
  | ld_c_l
  /-- `ld c,(hl)` (0x4E), R151. -/
  | ld_c__hl
  /-- `ld c,a` (0x4F), R150. -/
  | ld_c_a
  /-- `ld d,b` (0x50), R150. -/
  | ld_d_b
  /-- `ld d,c` (0x51), R150. -/
  | ld_d_c
  /-- `ld d,d` (0x52), R150. -/
  | ld_d_d
  /-- `ld d,e` (0x53), R150. -/
  | ld_d_e
  /-- `ld d,h` (0x54), R150. -/
  | ld_d_h
  /-- `ld d,l` (0x55), R150. -/
  | ld_d_l
  /-- `ld d,(hl)` (0x56), R151. -/
  | ld_d__hl
  /-- `ld d,a` (0x57), R150. -/
  | ld_d_a
  /-- `ld e,b` (0x58), R150. -/
  | ld_e_b
  /-- `ld e,c` (0x59), R150. -/
  | ld_e_c
  /-- `ld e,d` (0x5A), R150. -/
  | ld_e_d
  /-- `ld e,e` (0x5B), R150. -/
  | ld_e_e
  /-- `ld e,h` (0x5C), R150. -/
  | ld_e_h
  /-- `ld e,l` (0x5D), R150. -/
  | ld_e_l
  /-- `ld e,(hl)` (0x5E), R151. -/
  | ld_e__hl
  /-- `ld e,a` (0x5F), R150. -/
  | ld_e_a
  /-- `ld h,b` (0x60), R150. -/
  | ld_h_b
  /-- `ld h,c` (0x61), R150. -/
  | ld_h_c
  /-- `ld h,d` (0x62), R150. -/
  | ld_h_d
  /-- `ld h,e` (0x63), R150. -/
  | ld_h_e
  /-- `ld h,h` (0x64), R150. -/
  | ld_h_h
  /-- `ld h,l` (0x65), R150. -/
  | ld_h_l
  /-- `ld h,(hl)` (0x66), R151. -/
  | ld_h__hl
  /-- `ld h,a` (0x67), R150. -/
  | ld_h_a
  /-- `ld l,b` (0x68), R150. -/
  | ld_l_b
  /-- `ld l,c` (0x69), R150. -/
  | ld_l_c
  /-- `ld l,d` (0x6A), R150. -/
  | ld_l_d
  /-- `ld l,e` (0x6B), R150. -/
  | ld_l_e
  /-- `ld l,h` (0x6C), R150. -/
  | ld_l_h
  /-- `ld l,l` (0x6D), R150. -/
  | ld_l_l
  /-- `ld l,(hl)` (0x6E), R151. -/
  | ld_l__hl
  /-- `ld l,a` (0x6F), R150. -/
  | ld_l_a
  /-- `ld (hl),b` (0x70), R152. -/
  | ld__hl__b
  /-- `ld (hl),c` (0x71), R152. -/
  | ld__hl__c
  /-- `ld (hl),d` (0x72), R152. -/
  | ld__hl__d
  /-- `ld (hl),e` (0x73), R152. -/
  | ld__hl__e
  /-- `ld (hl),h` (0x74), R152. -/
  | ld__hl__h
  /-- `ld (hl),l` (0x75), R152. -/
  | ld__hl__l
  /-- `halt` (0x76), R232. -/
  | halt
  /-- `ld (hl),a` (0x77), R152. -/
  | ld__hl__a
  /-- `ld a,b` (0x78), R150. -/
  | ld_a_b
  /-- `ld a,c` (0x79), R150. -/
  | ld_a_c
  /-- `ld a,d` (0x7A), R150. -/
  | ld_a_d
  /-- `ld a,e` (0x7B), R150. -/
  | ld_a_e
  /-- `ld a,h` (0x7C), R150. -/
  | ld_a_h
  /-- `ld a,l` (0x7D), R150. -/
  | ld_a_l
  /-- `ld a,(hl)` (0x7E), R151. -/
  | ld_a__hl
  /-- `ld a,a` (0x7F), R150. -/
  | ld_a_a
  /-- `add a,b` (0x80), R172. -/
  | add_a_b
  /-- `add a,c` (0x81), R172. -/
  | add_a_c
  /-- `add a,d` (0x82), R172. -/
  | add_a_d
  /-- `add a,e` (0x83), R172. -/
  | add_a_e
  /-- `add a,h` (0x84), R172. -/
  | add_a_h
  /-- `add a,l` (0x85), R172. -/
  | add_a_l
  /-- `add a,(hl)` (0x86), R173. -/
  | add_a__hl
  /-- `add a,a` (0x87), R172. -/
  | add_a_a
  /-- `sub a,b` (0x90), R175. -/
  | sub_a_b
  /-- `sub a,c` (0x91), R175. -/
  | sub_a_c
  /-- `sub a,d` (0x92), R175. -/
  | sub_a_d
  /-- `sub a,e` (0x93), R175. -/
  | sub_a_e
  /-- `sub a,h` (0x94), R175. -/
  | sub_a_h
  /-- `sub a,l` (0x95), R175. -/
  | sub_a_l
  /-- `sub a,(hl)` (0x96), R176. -/
  | sub_a__hl
  /-- `sub a,a` (0x97), R175. -/
  | sub_a_a
  /-- `xor a,b` (0xA8), R190. -/
  | xor_a_b
  /-- `xor a,c` (0xA9), R190. -/
  | xor_a_c
  /-- `xor a,d` (0xAA), R190. -/
  | xor_a_d
  /-- `xor a,e` (0xAB), R190. -/
  | xor_a_e
  /-- `xor a,h` (0xAC), R190. -/
  | xor_a_h
  /-- `xor a,l` (0xAD), R190. -/
  | xor_a_l
  /-- `xor a,(hl)` (0xAE), R191. -/
  | xor_a__hl
  /-- `xor a,a` (0xAF), R190. -/
  | xor_a_a
  /-- `cp a,b` (0xB8), R178. -/
  | cp_a_b
  /-- `cp a,c` (0xB9), R178. -/
  | cp_a_c
  /-- `cp a,d` (0xBA), R178. -/
  | cp_a_d
  /-- `cp a,e` (0xBB), R178. -/
  | cp_a_e
  /-- `cp a,h` (0xBC), R178. -/
  | cp_a_h
  /-- `cp a,l` (0xBD), R178. -/
  | cp_a_l
  /-- `cp a,(hl)` (0xBE), R179. -/
  | cp_a__hl
  /-- `cp a,a` (0xBF), R178. -/
  | cp_a_a
  /-- `ret nz` (0xC0), R205. -/
  | ret_nz
  /-- `jp nn` (0xC3), R222. -/
  | jp_nn (nn : Word)
  /-- `push bc` (0xC5), R202. -/
  | push_bc
  /-- `add a,n` (0xC6), R174. -/
  | add_a_n (n : Byte)
  /-- `rst 0x00` (0xC7), R206. -/
  | rst_0x00
  /-- `ret z` (0xC8), R205. -/
  | ret_z
  /-- `ret` (0xC9), R204. -/
  | ret
  /-- `(prefix 0xCB)` (0xCB), R233. -/
  | prefix_0xCB
  /-- `call nn` (0xCD), R203. -/
  | call_nn (nn : Word)
  /-- `rst 0x08` (0xCF), R206. -/
  | rst_0x08
  /-- `ret nc` (0xD0), R205. -/
  | ret_nc
  /-- `push de` (0xD5), R202. -/
  | push_de
  /-- `sub a,n` (0xD6), R177. -/
  | sub_a_n (n : Byte)
  /-- `rst 0x10` (0xD7), R206. -/
  | rst_0x10
  /-- `ret c` (0xD8), R205. -/
  | ret_c
  /-- `rst 0x18` (0xDF), R206. -/
  | rst_0x18
  /-- `push hl` (0xE5), R202. -/
  | push_hl
  /-- `rst 0x20` (0xE7), R206. -/
  | rst_0x20
  /-- `jp hl` (0xE9), R223. -/
  | jp_hl
  /-- `xor a,n` (0xEE), R192. -/
  | xor_a_n (n : Byte)
  /-- `rst 0x28` (0xEF), R206. -/
  | rst_0x28
  /-- `di` (0xF3), R230. -/
  | di
  /-- `push af` (0xF5), R202. -/
  | push_af
  /-- `rst 0x30` (0xF7), R206. -/
  | rst_0x30
  /-- `ld sp,hl` (0xF9), R160. -/
  | ld_sp_hl
  /-- `ei` (0xFB), R231. -/
  | ei
  /-- `cp a,n` (0xFE), R180. -/
  | cp_a_n (n : Byte)
  /-- `rst 0x38` (0xFF), R206. -/
  | rst_0x38
deriving DecidableEq, Repr

end Sys2Proof
end

