-- ==== Sys2Proof/Decode.lean ====
section
/-! DEFINITION. Decoding and encoding. The decoder is written from the bit patterns of spec/30_encoding.md R108 (fields
x, y, z of R101); the encoder after it is written from the opcode bytes of spec/opcode_table.json. Both are total. -/

namespace Sys2Proof

/-! ## Rows of one pattern: the instruction a family has at given operand codes -/

/-- `ld r,r'` (R150), pattern `01dddsss`: the row with destination `dst` and source `src`. -/
def Instr.ldReg (dst src : Reg8) : Instr :=
  match dst, src with
  | .b, .b => .ld_b_b | .b, .c => .ld_b_c | .b, .d => .ld_b_d | .b, .e => .ld_b_e | .b, .h => .ld_b_h | .b, .l => .ld_b_l | .b, .a => .ld_b_a
  | .c, .b => .ld_c_b | .c, .c => .ld_c_c | .c, .d => .ld_c_d | .c, .e => .ld_c_e | .c, .h => .ld_c_h | .c, .l => .ld_c_l | .c, .a => .ld_c_a
  | .d, .b => .ld_d_b | .d, .c => .ld_d_c | .d, .d => .ld_d_d | .d, .e => .ld_d_e | .d, .h => .ld_d_h | .d, .l => .ld_d_l | .d, .a => .ld_d_a
  | .e, .b => .ld_e_b | .e, .c => .ld_e_c | .e, .d => .ld_e_d | .e, .e => .ld_e_e | .e, .h => .ld_e_h | .e, .l => .ld_e_l | .e, .a => .ld_e_a
  | .h, .b => .ld_h_b | .h, .c => .ld_h_c | .h, .d => .ld_h_d | .h, .e => .ld_h_e | .h, .h => .ld_h_h | .h, .l => .ld_h_l | .h, .a => .ld_h_a
  | .l, .b => .ld_l_b | .l, .c => .ld_l_c | .l, .d => .ld_l_d | .l, .e => .ld_l_e | .l, .h => .ld_l_h | .l, .l => .ld_l_l | .l, .a => .ld_l_a
  | .a, .b => .ld_a_b | .a, .c => .ld_a_c | .a, .d => .ld_a_d | .a, .e => .ld_a_e | .a, .h => .ld_a_h | .a, .l => .ld_a_l | .a, .a => .ld_a_a

/-- `ld r,(hl)` (R151), pattern `01ddd110`. -/
def Instr.ldRegAtHl (dst : Reg8) : Instr :=
  match dst with
  | .b => .ld_b__hl | .c => .ld_c__hl | .d => .ld_d__hl | .e => .ld_e__hl
  | .h => .ld_h__hl | .l => .ld_l__hl | .a => .ld_a__hl

/-- `ld (hl),r` (R152), pattern `01110sss`. -/
def Instr.ldAtHlReg (src : Reg8) : Instr :=
  match src with
  | .b => .ld__hl__b | .c => .ld__hl__c | .d => .ld__hl__d | .e => .ld__hl__e
  | .h => .ld__hl__h | .l => .ld__hl__l | .a => .ld__hl__a

/-- `ld r,n` (R157), pattern `00ddd110`. -/
def Instr.ldRegN (dst : Reg8) (n : Byte) : Instr :=
  match dst with
  | .b => .ld_b_n n | .c => .ld_c_n n | .d => .ld_d_n n | .e => .ld_e_n n
  | .h => .ld_h_n n | .l => .ld_l_n n | .a => .ld_a_n n

/-- `ld rr,nn` (R159), pattern `00pp0001`. -/
def Instr.ldPairNn (p : Pair) (nn : Word) : Instr :=
  match p with
  | .bc => .ld_bc_nn nn
  | .de => .ld_de_nn nn
  | .hl => .ld_hl_nn nn
  | .sp => .ld_sp_nn nn

/-- `add a,r` (R172), pattern `10000sss`. -/
def Instr.addReg (src : Reg8) : Instr :=
  match src with
  | .b => .add_a_b | .c => .add_a_c | .d => .add_a_d | .e => .add_a_e
  | .h => .add_a_h | .l => .add_a_l | .a => .add_a_a

/-- `sub a,r` (R175), pattern `10010sss`. -/
def Instr.subReg (src : Reg8) : Instr :=
  match src with
  | .b => .sub_a_b | .c => .sub_a_c | .d => .sub_a_d | .e => .sub_a_e
  | .h => .sub_a_h | .l => .sub_a_l | .a => .sub_a_a

/-- `cp a,r` (R178), pattern `10111sss`. -/
def Instr.cpReg (src : Reg8) : Instr :=
  match src with
  | .b => .cp_a_b | .c => .cp_a_c | .d => .cp_a_d | .e => .cp_a_e
  | .h => .cp_a_h | .l => .cp_a_l | .a => .cp_a_a

/-- `xor a,r` (R190), pattern `10101sss`. -/
def Instr.xorReg (src : Reg8) : Instr :=
  match src with
  | .b => .xor_a_b | .c => .xor_a_c | .d => .xor_a_d | .e => .xor_a_e
  | .h => .xor_a_h | .l => .xor_a_l | .a => .xor_a_a

/-- `push rr` (R202), pattern `11pp0101`. -/
def Instr.pushPair (p : PushPair) : Instr :=
  match p with
  | .bc => .push_bc
  | .de => .push_de
  | .hl => .push_hl
  | .af => .push_af

/-- `ret cc` (R205), pattern `110cc000`. -/
def Instr.retCond (cc : Cond) : Instr :=
  match cc with
  | .nz => .ret_nz
  | .z => .ret_z
  | .nc => .ret_nc
  | .c => .ret_c

/-- `jr cc,e` (R221), pattern `001cc000`. -/
def Instr.jrCond (cc : Cond) (e : Byte) : Instr :=
  match cc with
  | .nz => .jr_nz_e e
  | .z => .jr_z_e e
  | .nc => .jr_nc_e e
  | .c => .jr_c_e e

/-- `rst 8*t` (R206), pattern `11ttt111`. -/
def Instr.rstTarget (t : BitVec 3) : Instr :=
  match t.toNat with
  | 0 => .rst_0x00
  | 1 => .rst_0x08
  | 2 => .rst_0x10
  | 3 => .rst_0x18
  | 4 => .rst_0x20
  | 5 => .rst_0x28
  | 6 => .rst_0x30
  | _ => .rst_0x38

/-! ## Decoding -/

/-- The operand a 3-bit code selects (R101). -/
def code8 (code : BitVec 3) : Code8 :=
  match code.toNat with
  | 0 => .reg .b
  | 1 => .reg .c
  | 2 => .reg .d
  | 3 => .reg .e
  | 4 => .reg .h
  | 5 => .reg .l
  | 6 => .atHl
  | _ => .reg .a

/-- The condition a 2-bit code selects (R103). -/
def condCode (cc : BitVec 2) : Cond :=
  match cc.toNat with
  | 0 => .nz
  | 1 => .z
  | 2 => .nc
  | _ => .c

/-- The pair of `ld rr,nn` a 2-bit code selects (R102). -/
def pairCode (p : BitVec 2) : Pair :=
  match p.toNat with
  | 0 => .bc
  | 1 => .de
  | 2 => .hl
  | _ => .sp

/-- The pair of `push rr` a 2-bit code selects (R102). -/
def pushPairCode (p : BitVec 2) : PushPair :=
  match p.toNat with
  | 0 => .bc
  | 1 => .de
  | 2 => .hl
  | _ => .af

/-- What an opcode byte selects: an instruction of one of the four formats of R100, waiting for its operand bytes. -/
inductive Template where
  /-- format OP: no operand byte -/
  | op (i : Instr)
  /-- format OP_N: one byte, an immediate -/
  | opN (mk : Byte → Instr)
  /-- format OP_E: one byte, a displacement -/
  | opE (mk : Byte → Instr)
  /-- format OP_NN: two bytes, low byte first (R107) -/
  | opNn (mk : Word → Instr)

/-- Opcodes `00yyyzzz`. -/
def decodeX0 (y z : BitVec 3) : Option Template :=
  match z.toNat with
  | 0 =>
    if y = 3 then some (.opE .jr_e)
    else if y.getLsbD 2 then some (.opE (Instr.jrCond (condCode (y.extractLsb' 0 2))))
    else none
  | 1 => if y.getLsbD 0 then none else some (.opNn (Instr.ldPairNn (pairCode (y.extractLsb' 1 2))))
  | 2 =>
    match y.toNat with
    | 0 => some (.op .ld__bc__a)
    | 1 => some (.op .ld_a__bc)
    | 2 => some (.op .ld__de__a)
    | 3 => some (.op .ld_a__de)
    | _ => none
  | 6 =>
    match code8 y with
    | .reg dst => some (.opN (Instr.ldRegN dst))
    | .atHl => some (.opN .ld__hl__n)
  | _ => none

/-- Opcodes `01yyyzzz`: loads, and `halt` where both codes are 6 (R150). -/
def decodeX1 (y z : BitVec 3) : Option Template :=
  match code8 y, code8 z with
  | .reg dst, .reg src => some (.op (Instr.ldReg dst src))
  | .reg dst, .atHl => some (.op (Instr.ldRegAtHl dst))
  | .atHl, .reg src => some (.op (Instr.ldAtHlReg src))
  | .atHl, .atHl => some (.op .halt)

/-- Opcodes `10yyyzzz`: the ALU operations with a register or `(hl)` operand. -/
def decodeX2 (y z : BitVec 3) : Option Template :=
  match y.toNat, code8 z with
  | 0, .reg s => some (.op (Instr.addReg s))
  | 0, .atHl => some (.op .add_a__hl)
  | 2, .reg s => some (.op (Instr.subReg s))
  | 2, .atHl => some (.op .sub_a__hl)
  | 5, .reg s => some (.op (Instr.xorReg s))
  | 5, .atHl => some (.op .xor_a__hl)
  | 7, .reg s => some (.op (Instr.cpReg s))
  | 7, .atHl => some (.op .cp_a__hl)
  | _, _ => none

/-- Opcodes `11yyyzzz`. -/
def decodeX3 (y z : BitVec 3) : Option Template :=
  match z.toNat with
  | 0 => if y.getLsbD 2 then none else some (.op (Instr.retCond (condCode (y.extractLsb' 0 2))))
  | 1 =>
    match y.toNat with
    | 1 => some (.op .ret)
    | 5 => some (.op .jp_hl)
    | 7 => some (.op .ld_sp_hl)
    | _ => none
  | 3 =>
    match y.toNat with
    | 0 => some (.opNn .jp_nn)
    | 1 => some (.op .prefix_0xCB)
    | 6 => some (.op .di)
    | 7 => some (.op .ei)
    | _ => none
  | 5 =>
    if y = 1 then some (.opNn .call_nn)
    else if y.getLsbD 0 then none
    else some (.op (Instr.pushPair (pushPairCode (y.extractLsb' 1 2))))
  | 6 =>
    match y.toNat with
    | 0 => some (.opN .add_a_n)
    | 2 => some (.opN .sub_a_n)
    | 5 => some (.opN .xor_a_n)
    | 7 => some (.opN .cp_a_n)
    | _ => none
  | 7 => some (.op (Instr.rstTarget y))
  | _ => none

/-- The opcode map (R108, R111): a total function of the opcode byte. `none` is `UnknownOpcode`, one of the 111 values of
R109; the prefix byte 0xCB selects the row `prefix_0xCB`, whose meaning is the fatal `UnsupportedPrefix` (R110). -/
def decodeOpcode (opcode : Byte) : Option Template :=
  let y := opcode.extractLsb' 3 3
  let z := opcode.extractLsb' 0 3
  match (opcode.extractLsb' 6 2).toNat with
  | 0 => decodeX0 y z
  | 1 => decodeX1 y z
  | 2 => decodeX2 y z
  | _ => decodeX3 y z

/-- Why a list of bytes is no instruction. -/
inductive DecodeError where
  /-- the opcode byte is one of the 111 undefined values (R109) -/
  | unknownOpcode (byte : Byte)
  /-- the list ends before the instruction does; the machine never meets this, since it fetches the bytes it needs (R112) -/
  | truncated
deriving DecidableEq, Repr

/-- The instruction a list of bytes begins with, and the bytes after it. -/
def decode (bytes : List Byte) : Except DecodeError (Instr × List Byte) :=
  match bytes with
  | [] => .error .truncated
  | opcode :: rest =>
    match decodeOpcode opcode with
    | none => .error (.unknownOpcode opcode)
    | some (.op i) => .ok (i, rest)
    | some (.opN mk) | some (.opE mk) =>
      match rest with
      | [] => .error .truncated
      | n :: rest => .ok (mk n, rest)
    | some (.opNn mk) =>
      match rest with
      | lo :: hi :: rest => .ok (mk (join hi lo), rest)
      | _ => .error .truncated

/-! ## Encoding, from spec/opcode_table.json -/

/-- The `match` byte of the instruction's row. -/
def Instr.opcode (i : Instr) : Byte :=
  match i with
  | .ld_bc_nn _ => 0x01 | .ld__bc__a => 0x02 | .ld_b_n _ => 0x06 | .ld_a__bc => 0x0A
  | .ld_c_n _ => 0x0E | .ld_de_nn _ => 0x11 | .ld__de__a => 0x12 | .ld_d_n _ => 0x16
  | .jr_e _ => 0x18 | .ld_a__de => 0x1A | .ld_e_n _ => 0x1E | .jr_nz_e _ => 0x20
  | .ld_hl_nn _ => 0x21 | .ld_h_n _ => 0x26 | .jr_z_e _ => 0x28 | .ld_l_n _ => 0x2E
  | .jr_nc_e _ => 0x30 | .ld_sp_nn _ => 0x31 | .ld__hl__n _ => 0x36 | .jr_c_e _ => 0x38
  | .ld_a_n _ => 0x3E | .ld_b_b => 0x40 | .ld_b_c => 0x41 | .ld_b_d => 0x42
  | .ld_b_e => 0x43 | .ld_b_h => 0x44 | .ld_b_l => 0x45 | .ld_b__hl => 0x46
  | .ld_b_a => 0x47 | .ld_c_b => 0x48 | .ld_c_c => 0x49 | .ld_c_d => 0x4A
  | .ld_c_e => 0x4B | .ld_c_h => 0x4C | .ld_c_l => 0x4D | .ld_c__hl => 0x4E
  | .ld_c_a => 0x4F | .ld_d_b => 0x50 | .ld_d_c => 0x51 | .ld_d_d => 0x52
  | .ld_d_e => 0x53 | .ld_d_h => 0x54 | .ld_d_l => 0x55 | .ld_d__hl => 0x56
  | .ld_d_a => 0x57 | .ld_e_b => 0x58 | .ld_e_c => 0x59 | .ld_e_d => 0x5A
  | .ld_e_e => 0x5B | .ld_e_h => 0x5C | .ld_e_l => 0x5D | .ld_e__hl => 0x5E
  | .ld_e_a => 0x5F | .ld_h_b => 0x60 | .ld_h_c => 0x61 | .ld_h_d => 0x62
  | .ld_h_e => 0x63 | .ld_h_h => 0x64 | .ld_h_l => 0x65 | .ld_h__hl => 0x66
  | .ld_h_a => 0x67 | .ld_l_b => 0x68 | .ld_l_c => 0x69 | .ld_l_d => 0x6A
  | .ld_l_e => 0x6B | .ld_l_h => 0x6C | .ld_l_l => 0x6D | .ld_l__hl => 0x6E
  | .ld_l_a => 0x6F | .ld__hl__b => 0x70 | .ld__hl__c => 0x71 | .ld__hl__d => 0x72
  | .ld__hl__e => 0x73 | .ld__hl__h => 0x74 | .ld__hl__l => 0x75 | .halt => 0x76
  | .ld__hl__a => 0x77 | .ld_a_b => 0x78 | .ld_a_c => 0x79 | .ld_a_d => 0x7A
  | .ld_a_e => 0x7B | .ld_a_h => 0x7C | .ld_a_l => 0x7D | .ld_a__hl => 0x7E
  | .ld_a_a => 0x7F | .add_a_b => 0x80 | .add_a_c => 0x81 | .add_a_d => 0x82
  | .add_a_e => 0x83 | .add_a_h => 0x84 | .add_a_l => 0x85 | .add_a__hl => 0x86
  | .add_a_a => 0x87 | .sub_a_b => 0x90 | .sub_a_c => 0x91 | .sub_a_d => 0x92
  | .sub_a_e => 0x93 | .sub_a_h => 0x94 | .sub_a_l => 0x95 | .sub_a__hl => 0x96
  | .sub_a_a => 0x97 | .xor_a_b => 0xA8 | .xor_a_c => 0xA9 | .xor_a_d => 0xAA
  | .xor_a_e => 0xAB | .xor_a_h => 0xAC | .xor_a_l => 0xAD | .xor_a__hl => 0xAE
  | .xor_a_a => 0xAF | .cp_a_b => 0xB8 | .cp_a_c => 0xB9 | .cp_a_d => 0xBA
  | .cp_a_e => 0xBB | .cp_a_h => 0xBC | .cp_a_l => 0xBD | .cp_a__hl => 0xBE
  | .cp_a_a => 0xBF | .ret_nz => 0xC0 | .jp_nn _ => 0xC3 | .push_bc => 0xC5
  | .add_a_n _ => 0xC6 | .rst_0x00 => 0xC7 | .ret_z => 0xC8 | .ret => 0xC9
  | .prefix_0xCB => 0xCB | .call_nn _ => 0xCD | .rst_0x08 => 0xCF | .ret_nc => 0xD0
  | .push_de => 0xD5 | .sub_a_n _ => 0xD6 | .rst_0x10 => 0xD7 | .ret_c => 0xD8
  | .rst_0x18 => 0xDF | .push_hl => 0xE5 | .rst_0x20 => 0xE7 | .jp_hl => 0xE9
  | .xor_a_n _ => 0xEE | .rst_0x28 => 0xEF | .di => 0xF3 | .push_af => 0xF5
  | .rst_0x30 => 0xF7 | .ld_sp_hl => 0xF9 | .ei => 0xFB | .cp_a_n _ => 0xFE
  | .rst_0x38 => 0xFF

/-- The operand bytes at ascending addresses (R100, R105 to R107). -/
def Instr.operands (i : Instr) : List Byte :=
  match i with
  | .ld_b_n n => [n] | .ld_c_n n => [n] | .ld_d_n n => [n] | .ld_e_n n => [n]
  | .ld_h_n n => [n] | .ld_l_n n => [n] | .ld__hl__n n => [n] | .ld_a_n n => [n]
  | .add_a_n n => [n] | .sub_a_n n => [n] | .xor_a_n n => [n] | .cp_a_n n => [n]
  | .jr_e e => [e] | .jr_nz_e e => [e] | .jr_z_e e => [e] | .jr_nc_e e => [e]
  | .jr_c_e e => [e]
  | .ld_bc_nn nn => [loByte nn, hiByte nn] | .ld_de_nn nn => [loByte nn, hiByte nn]
  | .ld_hl_nn nn => [loByte nn, hiByte nn] | .ld_sp_nn nn => [loByte nn, hiByte nn]
  | .jp_nn nn => [loByte nn, hiByte nn] | .call_nn nn => [loByte nn, hiByte nn]
  | _ => []

/-- The bytes of an instruction at ascending addresses (R100). -/
def encode (i : Instr) : List Byte :=
  i.opcode :: i.operands

/-! ## The table's own numbering of an instruction's bits -/

/-- The three bytes of the longest instruction (R100), the first byte from bits 7..0 of `w` and so on, where every bit of
`w` from `nbits` up is taken as 0. -/
def tableBytes (nbits w : Nat) : List Byte :=
  let v := w % 2 ^ nbits
  [BitVec.ofNat 8 v, BitVec.ofNat 8 (v / 2 ^ 8), BitVec.ofNat 8 (v / 2 ^ 16)]

/-- The instruction the decoder reads from the bytes `tableBytes nbits w`, `none` where it refuses them. -/
def decodeTableWord (nbits w : Nat) : Option Instr :=
  match decode (tableBytes nbits w) with
  | .ok (i, _) => some i
  | .error _ => none

end Sys2Proof
end

