-- ==== Sys2Proof/Config.lean ====
section
/-! DEFINITION. What an implementation fixes: the one free value of the spec (`IO_DEFAULT`), the smallest ROM length,
and the positive cycle counts the parameters of spec/00_scope.md R5 are made of. -/

namespace Sys2Proof

/-- FREE VALUE. `IO_DEFAULT` of spec/00_scope.md R5: the byte a load from an I/O address with no handler returns
(spec/20_memory.md R70: "DOC gives no value for the default; a model must treat it as unknown"). One byte, the same for
every address and every load (spec/92_eei_decisions.md D17). It has no body: nothing can be proved of its value (log 5). -/
opaque Config.ioDefault : Byte

/-- The least `ROM_LEN` the parameter may have (spec/00_scope.md R5: `0x4000 <= ROM_LEN`). -/
def Config.romLenMin : Nat := 0x4000

/-- A positive number of clock cycles (spec/40_engine_step.md R137: "Every engine step reports a positive number of
cycles"), held as the number less one so that no value of the type is zero. -/
structure Cost where
  /-- the cycles beyond the first -/
  extra : Nat
deriving DecidableEq, Repr

/-- The number of cycles a cost stands for. -/
abbrev Cost.cycles (c : Cost) : Nat := c.extra + 1

/-- One row of the parameter `CYC` (spec/00_scope.md R5: a function from (opcode byte, taken) to a positive integer)
that differs from the default table of spec/70_reset_and_hazards.md R307 (log 6). -/
structure CycRow where
  opcode : Byte
  taken  : Bool
  cost   : Cost
deriving DecidableEq, Repr

end Sys2Proof
end

