-- ==== Sys2Proof/Machine/State.lean ====
section
/-! DEFINITION. The state of the machine: every row of spec/10_state.md; the arguments of spec/00_scope.md R5 a step takes
beside it; the reasons a step can stop, and the power-on state of spec/10_state.md R35. -/

namespace Sys2Proof.Machine

/-! ## Reasons to stop -/

/-- The kind of a bus access (spec/60_exceptions.md R240, R243). -/
inductive Access where
  | load | store
deriving DecidableEq, Repr

/-- The fatal errors, the complete list of spec/60_exceptions.md R240. A fault ends the run (spec/40_engine_step.md
R138); the state after one is not specified (spec/10_state.md R34), so none is kept: that is safe. -/
inductive Fault where
  /-- R241: raised by the fetch when the opcode byte is one of the 111 undefined values; `pc` is the address it was
  fetched from. Safe. -/
  | unknownOpcode (byte : Byte) (pc : Word)
  /-- R242: raised by the meaning of the prefix byte 0xCB. Safe. -/
  | unsupportedPrefix
  /-- R243: raised by `load8` and `store8` at an address no window maps for that kind of access; `address` is that of the
  single byte access that failed. Safe. -/
  | unmapped (address : Word) (kind : Access)
  /-- R245: raised by the interrupt check when it chooses a line `n >= 5`. Safe. -/
  | invalidInterruptLine (n : Nat)
deriving DecidableEq, Repr

/-- Reasons to give an instruction no meaning. Every instruction of this model has one, so nothing raises it. -/
inductive Refusal where
  /-- Raised by an arm of `exec` whose instruction has no meaning yet; no arm raises it. Safe. -/
  | notModelled (mnemonic : String)
deriving DecidableEq, Repr

/-! ## The parts of the state -/

/-- The four flags, bits 7 to 4 of `F` (spec/10_state.md R21). The low four bits "always read 0 and cannot be set by any
means", so nothing stores them; `State.f` (Operands.lean) is the byte (log 12). -/
structure Flags where
  /-- zero, bit 7 -/
  z : Bool
  /-- subtract, bit 6 -/
  n : Bool
  /-- half-carry, bit 5 -/
  h : Bool
  /-- carry, bit 4 -/
  c : Bool
deriving DecidableEq, Repr

/-- A pending enable or disable of IME: the count 0, 1 or 2 of spec/10_state.md R28 (log 13). -/
inductive Countdown where
  /-- 0: nothing pending -/
  | idle
  /-- 1 -/
  | one
  /-- 2: as armed by `ei` or `di` -/
  | two
deriving DecidableEq, Repr

/-- What the devices outside the CORE assert during one machine step: `irq_in` of spec/60_exceptions.md R251. -/
structure IrqIn where
  /-- line 0 -/
  vblank  : Bool
  /-- line 1 -/
  lcdStat : Bool
  /-- line 3 -/
  serial  : Bool
  /-- line 4 -/
  joypad  : Bool
deriving DecidableEq, Repr

/-- The parameters of spec/00_scope.md R5 that a step reads. They are arguments of the step and no state of the machine
(spec/10_state.md R36, log 1). `IO_DEFAULT` is
`Config.ioDefault`; `RAM0` is the `mem` a run starts from. -/
structure Params where
  /-- `ROM`: the cartridge image, keyed by offset; an offset not listed holds `Memory.unlisted` (log 3) -/
  rom      : Memory
  /-- `ROM_LEN` less 0x4000, so that every value is one the parameter may have (R5, log 2) -/
  romExtra : Nat
  /-- `CYC`: the rows that differ from the default table of spec/70_reset_and_hazards.md R307; the first row for a key
  counts (log 6) -/
  cyc      : List CycRow
  /-- `CYC_IRQ` -/
  cycIrq   : Cost
  /-- `CYC_HALT` -/
  cycHalt  : Cost
deriving DecidableEq, Repr

/-- THE MACHINE: every row of the table of spec/10_state.md R35 and nothing else. None of what R36 says a model must not
store in the machine is here: no ROM image, no other parameter, no input. `status` (R34) is the outcome of the step: a
machine that has a state is `running`, a fault is `fatal`. -/
structure CoreState where
  /-- the general registers (R20) -/
  a : Byte
  b : Byte
  c : Byte
  d : Byte
  e : Byte
  h : Byte
  l : Byte
  /-- the flag register `F` (R21) -/
  flags : Flags
  /-- the program counter (R24) -/
  pc : Word
  /-- the stack pointer (R25) -/
  sp : Word
  /-- the master-interrupt-enable flag `IME` (R26) -/
  ime : Bool
  /-- `halted` (R27) -/
  halted : Bool
  /-- the pending enable `ei_cnt` (R28) -/
  eiCnt : Countdown
  /-- the pending disable `di_cnt` (R28) -/
  diCnt : Countdown
  /-- the interrupt-enable mask `IE` (R29) -/
  ie : Byte
  /-- the interrupt-pending mask `IF` (R30) -/
  iflag : Byte
  /-- the divider `DIVC`; `DIV` is its high byte (R31) -/
  divc : Word
  /-- the counter `TIMA` (R31) -/
  tima : Byte
  /-- the reload value `TMA` (R31) -/
  tma : Byte
  /-- the timer control `TAC` (R31; fields in spec/60_exceptions.md R264) -/
  tac : Byte
  /-- `tima_acc`: cycles accumulated toward the next tick of `TIMA` (R31) -/
  timaAcc : Nat
  /-- the serial data register `SB` (R32) -/
  sb : Byte
  /-- the serial control register `SC` (R32) -/
  sc : Byte
  /-- `XRAM`, `WRAM` and `HRAM` (R33), keyed by bus address: 0xA000 to 0xBFFF, 0xC000 to 0xDFFF, 0xFF80 to 0xFFFE. An
  echo address has no cell of its own (log 18) -/
  mem : Memory
deriving DecidableEq, Repr

/-- What one step takes: the machine between two machine steps, and beside it what spec/00_scope.md R5 says the model takes
as arguments. The host's `step` has one argument and answers one of the same type, so the two stand side by side in it
(log 1). They are no part of the machine (spec/10_state.md R36), which is `toCoreState`. -/
structure State extends CoreState where
  /-- the inputs `irq_in` still to come, one a machine step, the next one first; after the last none is asserted (log 7) -/
  irqIn : List IrqIn
  /-- the other parameters a step reads (R5); no step changes them -/
  params : Params
deriving DecidableEq, Repr

/-! ## Power-on -/

/-- The parameters of the reset state: no ROM byte listed, `ROM_LEN = 0x4000`, the cycle costs of the default table of
spec/70_reset_and_hazards.md R307. DESIGN CHOICE, unsafe (log 3); PRESUMED, unsafe (log 6). -/
def Params.default : Params where
  rom      := []
  romExtra := 0
  cyc      := []
  cycIrq   := ⟨19⟩
  cycHalt  := ⟨3⟩

/-- The machine at power-on (spec/10_state.md R35), for given RAM contents `RAM0`. No other parameter has a part in it. -/
def CoreState.powerOn (ram0 : Memory) : CoreState where
  a := 0x01
  b := 0x00
  c := 0x13
  d := 0x00
  e := 0xD8
  h := 0x01
  l := 0x4D
  flags := ⟨true, false, true, true⟩
  pc := 0x0100
  sp := 0xFFFE
  ime := false
  halted := false
  eiCnt := .idle
  diCnt := .idle
  ie := 0x00
  iflag := 0x00
  divc := 0x0000
  tima := 0x00
  tma := 0x00
  tac := 0x00
  timaAcc := 0
  sb := 0x00
  sc := 0x00
  mem := ram0

/-- The machine at power-on with given parameters and inputs beside it. -/
def State.powerOn (params : Params) (ram0 : Memory) (irqIn : List IrqIn) : State where
  toCoreState := CoreState.powerOn ram0
  irqIn := irqIn
  params := params

/-- The machine right after power-on (R35, R300), with the parameters of `Params.default`, no RAM byte listed (log 4) and no
input listed (log 7). -/
def State.reset : State := State.powerOn Params.default [] []

end Sys2Proof.Machine
end

