-- ==== Sys2Proof/Machine/Operands.lean ====
section
/-! DEFINITION. Operand forms: the register operands, the paired 16-bit views, the flag byte, the conditions and the
displacement. Every read and write of a register goes through these accessors or a plain field. -/

namespace Sys2Proof.Machine

/-! ## The flag register -/

/-- The byte `F`: Z, N, H, C in bits 7 to 4, the low nibble 0 (spec/10_state.md R21). -/
def Flags.toByte (f : Flags) : Byte :=
  BitVec.ofBool f.z ++ BitVec.ofBool f.n ++ BitVec.ofBool f.h ++ BitVec.ofBool f.c ++ 0#4

/-- The flags a byte written to `F` sets: `v[7:4]`, the low nibble dropped (spec/10_state.md R23). -/
def Flags.ofByte (v : Byte) : Flags :=
  ⟨v.getLsbD 7, v.getLsbD 6, v.getLsbD 5, v.getLsbD 4⟩

/-- The flag register `F` (R21). -/
def State.f (s : State) : Byte := s.flags.toByte

/-! ## 8-bit registers -/

/-- Reading a general register (R20). -/
def State.reg8 (s : State) (r : Reg8) : Byte :=
  match r with
  | .b => s.b
  | .c => s.c
  | .d => s.d
  | .e => s.e
  | .h => s.h
  | .l => s.l
  | .a => s.a

/-- Writing a general register (R20); none is hard-wired. -/
def State.setReg8 (s : State) (r : Reg8) (v : Byte) : State :=
  match r with
  | .b => { s with b := v }
  | .c => { s with c := v }
  | .d => { s with d := v }
  | .e => { s with e := v }
  | .h => { s with h := v }
  | .l => { s with l := v }
  | .a => { s with a := v }

/-! ## Paired 16-bit views, high byte first (R22, R23) -/

/-- `BC = B : C`. -/
def State.bc (s : State) : Word := join s.b s.c

/-- `DE = D : E`. -/
def State.de (s : State) : Word := join s.d s.e

/-- `HL = H : L`. -/
def State.hl (s : State) : Word := join s.h s.l

/-- `AF = A : F`; the low four bits are 0. -/
def State.af (s : State) : Word := join s.a s.f

/-- `BC <- v`. -/
def State.setBc (s : State) (v : Word) : State := { s with b := hiByte v, c := loByte v }

/-- `DE <- v`. -/
def State.setDe (s : State) (v : Word) : State := { s with d := hiByte v, e := loByte v }

/-- `HL <- v`. -/
def State.setHl (s : State) (v : Word) : State := { s with h := hiByte v, l := loByte v }

/-- `AF <- v`: the low nibble of `v` is dropped. No instruction writes AF as a pair (R23); the accessor is the register
file's. -/
def State.setAf (s : State) (v : Word) : State := { s with a := hiByte v, flags := Flags.ofByte (loByte v) }

/-- The pair `push rr` reads (spec/30_encoding.md R102). -/
def State.pushPair (s : State) (p : PushPair) : Word :=
  match p with
  | .bc => s.bc
  | .de => s.de
  | .hl => s.hl
  | .af => s.af

/-- The destination `ld rr,nn` writes (spec/30_encoding.md R102). -/
def State.setPair (s : State) (p : Pair) (v : Word) : State :=
  match p with
  | .bc => s.setBc v
  | .de => s.setDe v
  | .hl => s.setHl v
  | .sp => { s with sp := v }

/-! ## Conditions and displacements -/

/-- `Cond(cc)` (spec/44_stack_call_return.md R207). -/
def State.cond (s : State) (cc : Cond) : Bool :=
  match cc with
  | .nz => !s.flags.z
  | .z => s.flags.z
  | .nc => !s.flags.c
  | .c => s.flags.c

/-- `(PC + sext_16(b)) mod 65536` with the `PC` past the displacement byte (spec/30_encoding.md R106). -/
def State.relTarget (s : State) (e : Byte) : Word := s.pc + e.signExtend 16

end Sys2Proof.Machine
end

