-- ==== Sys2Proof/Machine/Cycles.lean ====
section
/-! DEFINITION. The cycles an engine step reports (spec/40_engine_step.md R137): the parameter `CYC` with the default table
of spec/70_reset_and_hazards.md R307. Only the timer depends on these numbers. -/

namespace Sys2Proof.Machine

/-- The default `CYC` of R307 by opcode byte, in the patterns of spec/30_encoding.md R108. `taken` counts only for `jr cc,e`
and `ret cc`. PRESUMED by the spec (log 6). -/
def defaultCycles (opcode : Byte) (taken : Bool) : Nat :=
  let y := opcode.extractLsb' 3 3
  let z := opcode.extractLsb' 0 3
  match (opcode.extractLsb' 6 2).toNat with
  | 0 =>
    match z.toNat with
    | 0 => if y = 3 then 12 else if taken then 12 else 8
    | 1 => 12
    | 2 => 8
    | _ => if y = 6 then 12 else 8
  | 1 => if y = 6 ∧ z = 6 then 4 else if y = 6 ∨ z = 6 then 8 else 4
  | 2 => if z = 6 then 8 else 4
  | _ =>
    match z.toNat with
    | 0 => if taken then 20 else 8
    | 1 => if y = 1 then 16 else if y = 5 then 4 else 8
    | 3 => if y = 0 then 16 else 4
    | 5 => if y = 1 then 24 else 16
    | 6 => 8
    | _ => 16

/-- `CYC(opcode, taken)` (spec/00_scope.md R5): the parameter's row, else the default. -/
def State.cycles (s : State) (opcode : Byte) (taken : Bool) : Nat :=
  match s.params.cyc.find? fun row => row.opcode = opcode ∧ row.taken = taken with
  | some row => row.cost.cycles
  | none => defaultCycles opcode taken

/-- The condition of `jr cc,e` and `ret cc`; no other instruction has one (spec/40_engine_step.md R135). -/
def conditionOf (i : Instr) : Option Cond :=
  match i with
  | .jr_nz_e _ | .ret_nz => some .nz
  | .jr_z_e _ | .ret_z => some .z
  | .jr_nc_e _ | .ret_nc => some .nc
  | .jr_c_e _ | .ret_c => some .c
  | _ => none

/-- `taken` of R135: whether the condition holds on the flags the instruction starts with (spec/44_stack_call_return.md
R205; log 15); false for every other instruction, whose cost ignores it. -/
def State.taken (s : State) (i : Instr) : Bool :=
  match conditionOf i with
  | some cc => s.cond cc
  | none => false

end Sys2Proof.Machine
end

