-- ==== Sys2Proof/Machine/Flags.lean ====
section
/-! DEFINITION. The flag computations: `Add8` and `Sub8` of spec/42_arithmetic.md R170 and R171, and the xor of
spec/43_logic.md R190. Operands are read as unsigned integers, the sum is exact, and the result is narrowed at the end. -/

namespace Sys2Proof.Machine

/-- The result byte of an ALU function and the four flags it writes. -/
structure AluResult where
  result : Byte
  flags  : Flags
deriving DecidableEq, Repr

/-- `Add8(a, x)` (R170): no carry input; H is the carry out of bit 3, C the carry out of bit 7. -/
def add8 (a x : Byte) : AluResult :=
  let sum := a.toNat + x.toNat
  { result := BitVec.ofNat 8 sum
    flags :=
      { z := sum % 256 == 0
        n := false
        h := decide (a.toNat % 16 + x.toNat % 16 > 15)
        c := decide (sum > 255) } }

/-- `Sub8(a, x)` (R171): no borrow input; H is the borrow into bit 4 from the low nibble, C the borrow out of bit 7. -/
def sub8 (a x : Byte) : AluResult :=
  let difference : Int := (a.toNat : Int) - (x.toNat : Int)
  { result := BitVec.ofInt 8 difference
    flags :=
      { z := difference % 256 == 0
        n := true
        h := decide (a.toNat % 16 < x.toNat % 16)
        c := decide (a.toNat < x.toNat) } }

/-- The exclusive or (spec/43_logic.md R190): N, H and C are written 0. -/
def xor8 (a x : Byte) : AluResult :=
  let result := a ^^^ x
  { result := result
    flags := { z := result == 0, n := false, h := false, c := false } }

end Sys2Proof.Machine
end

