-- ==== Sys2Proof/Machine/Memory.lean ====
section
/-! DEFINITION. Memory as a list of cells in one canonical form: keys strictly rising, and no cell equal to what an
unlisted key reads as. The ROM image and the read-write arrays are both held so. -/

namespace Sys2Proof.Machine

/-- What a key with no cell reads as. RAM contents at power-on and unlisted ROM bytes are open in the spec
(spec/92_eei_decisions.md D24, D19). DESIGN CHOICE, unsafe for a claim about `State.reset` (logs 3, 4). -/
def Memory.unlisted : Byte := 0x00

/-- The byte at a key. -/
def Memory.get (m : Memory) (key : Nat) : Byte :=
  match m with
  | [] => Memory.unlisted
  | (k, v) :: rest => if k = key then v else Memory.get rest key

/-- A cell put before the first cell with a greater key. -/
def Memory.insert (m : Memory) (key : Nat) (v : Byte) : Memory :=
  match m with
  | [] => [(key, v)]
  | cell :: rest => if key < cell.1 then (key, v) :: cell :: rest else cell :: Memory.insert rest key v

/-- The byte at a key replaced: the key's cell is taken out, and put back in its place unless the value is what an unlisted
key reads as. -/
def Memory.set (m : Memory) (key : Nat) (v : Byte) : Memory :=
  let others := m.filter fun cell => cell.1 != key
  if v = Memory.unlisted then others else Memory.insert others key v

/-- The canonical form. -/
abbrev Memory.wf (m : Memory) : Prop :=
  (m.map Prod.fst).Pairwise (· < ·) ∧ ∀ cell ∈ m, cell.2 ≠ Memory.unlisted

end Sys2Proof.Machine
end

