-- ==== Sys2Proof/Machine/Bus.lean ====
section
/-! DEFINITION. The address bus of spec/20_memory.md: the windows of R61, the I/O registers of R69, and the access
primitives `load8`, `load16` and `store8`. No load changes state (R80); a store is complete when it returns (R81). -/

namespace Sys2Proof.Machine

/-! ## Dispatch of an address -/

/-- The rows of the map of spec/20_memory.md R61. -/
inductive Window where
  | rom | romBank | videoRam | externalRam | workingRam | echoRam | oam | unusable | io | highRam | interruptEnable
deriving DecidableEq, Repr

/-- The one window an address falls in (R61). -/
def window (address : Word) : Window :=
  let a := address.toNat
  if a < 0x4000 then .rom
  else if a < 0x8000 then .romBank
  else if a < 0xA000 then .videoRam
  else if a < 0xC000 then .externalRam
  else if a < 0xE000 then .workingRam
  else if a < 0xFE00 then .echoRam
  else if a < 0xFEA0 then .oam
  else if a < 0xFF00 then .unusable
  else if a < 0xFF80 then .io
  else if a < 0xFFFF then .highRam
  else .interruptEnable

/-- The I/O registers with a handler (R69). -/
inductive IoRegister where
  | sb | sc | div | tima | tma | tac | iflag
deriving DecidableEq, Repr

/-- The handler at an exact I/O address, `none` where there is none (R69, R70). -/
def ioRegister (address : Word) : Option IoRegister :=
  match address.toNat with
  | 0xFF01 => some .sb
  | 0xFF02 => some .sc
  | 0xFF04 => some .div
  | 0xFF05 => some .tima
  | 0xFF06 => some .tma
  | 0xFF07 => some .tac
  | 0xFF0F => some .iflag
  | _ => none

/-- The key of the cell of `State.mem` behind an address of a RAM window: an echo address names the working RAM byte
0x2000 below (R68). -/
def cellKey (address : Word) : Nat :=
  match window address with
  | .echoRam => address.toNat - 0x2000
  | _ => address.toNat

/-- `ROM_LEN` (spec/00_scope.md R5). -/
def State.romLen (s : State) : Nat := Config.romLenMin + s.params.romExtra

/-! ## I/O registers -/

/-- A load from an I/O register (R69, R73; spec/60_exceptions.md R265, R268). -/
def State.readIo (s : State) (r : IoRegister) : Byte :=
  match r with
  | .sb => s.sb
  | .sc => s.sc
  | .div => hiByte s.divc
  | .tima => s.tima
  | .tma => s.tma
  | .tac => s.tac
  | .iflag => s.iflag

/-- A store to an I/O register (R69, R73; spec/60_exceptions.md R265, R268). A store to DIV clears the divider whatever the
value. The character a store to SB may emit is an output no rule reads (R268, log 11). -/
def State.writeIo (s : State) (r : IoRegister) (v : Byte) : State :=
  match r with
  | .sb => { s with sb := v }
  | .sc => { s with sc := v }
  | .div => { s with divc := 0 }
  | .tima => { s with tima := v }
  | .tma => { s with tma := v }
  | .tac => { s with tac := v }
  | .iflag => { s with iflag := v }

/-! ## Access primitives -/

/-- `load8(a)` (R74), the Load column of R61. -/
def load8 (s : State) (address : Word) : Except Fault Byte :=
  match window address with
  | .rom => .ok (Memory.get s.params.rom address.toNat)
  | .romBank =>
    if address.toNat < s.romLen then .ok (Memory.get s.params.rom address.toNat)
    else .error (.unmapped address .load)
  | .externalRam | .workingRam | .echoRam | .highRam => .ok (Memory.get s.mem (cellKey address))
  | .io =>
    match ioRegister address with
    | some r => .ok (s.readIo r)
    | none => .ok Config.ioDefault
  | .interruptEnable => .ok s.ie
  | .videoRam | .oam | .unusable => .error (.unmapped address .load)

/-- `store8(a, v)` (R76), the Store column of R61. A store into a ROM window is fatal (R63); one to an I/O address with no
handler is discarded (R70). -/
def store8 (s : State) (address : Word) (v : Byte) : Except Fault State :=
  match window address with
  | .externalRam | .workingRam | .echoRam | .highRam =>
    .ok { s with mem := Memory.set s.mem (cellKey address) v }
  | .io =>
    match ioRegister address with
    | some r => .ok (s.writeIo r v)
    | none => .ok s
  | .interruptEnable => .ok { s with ie := v }
  | .rom | .romBank | .videoRam | .oam | .unusable => .error (.unmapped address .store)

/-- `load16(a)` (R75): little-endian, the low byte first; `a + 1` wraps (R84). -/
def load16 (s : State) (address : Word) : Except Fault Word := do
  let lo ← load8 s address
  let hi ← load8 s (address + 1)
  return join hi lo

/-- `MemWrite(a, 2, v)` (R77): the low byte at the lower address, stored first. -/
def store16 (s : State) (address : Word) (v : Word) : Except Fault State := do
  let s ← store8 s address (loByte v)
  store8 s (address + 1) (hiByte v)

end Sys2Proof.Machine
end

