-- ==== Sys2Proof/Machine/Ops.lean ====
section
/-! DEFINITION. The shared operations: how a meaning ends, fetching an instruction, the stack, the interrupt countdowns,
taking an interrupt and returning from one. -/

namespace Sys2Proof.Machine

/-- The outcome of a meaning: a fatal error ends the run (spec/40_engine_step.md R138). -/
def finish (result : Except Fault State) : Host.Outcome State Fault Refusal :=
  match result with
  | .ok s => .next s
  | .error f => .fault f

/-! ## Fetching (spec/40_engine_step.md R135, R136) -/

/-- `Fetch8()`: the byte at PC and the state with PC past it (mod 65536). -/
def fetch8 (s : State) : Except Fault (Byte × State) := do
  let v ← load8 s s.pc
  return (v, { s with pc := s.pc + 1 })

/-- `Fetch16()`: low byte first. -/
def fetch16 (s : State) : Except Fault (Word × State) := do
  let (lo, s) ← fetch8 s
  let (hi, s) ← fetch8 s
  return (join hi lo, s)

/-- The instruction at PC and the state with PC past its last operand byte (spec/10_state.md R24). The opcode byte is
decoded before any operand byte is fetched (R135), and every operand byte is fetched before the action's own accesses
(spec/60_exceptions.md R247, log 14). -/
def fetchInstr (s : State) : Except Fault (Instr × State) := do
  let pc0 := s.pc
  let (opcode, s) ← fetch8 s
  match decodeOpcode opcode with
  | none => throw (.unknownOpcode opcode pc0)
  | some (.op i) => return (i, s)
  | some (.opN mk) | some (.opE mk) =>
    let (n, s) ← fetch8 s
    return (mk n, s)
  | some (.opNn mk) =>
    let (nn, s) ← fetch16 s
    return (mk nn, s)

/-! ## The stack (spec/44_stack_call_return.md R200, R201) -/

/-- `Push16(v)` (R200). -/
def push16 (s : State) (v : Word) : Except Fault State :=
  let sp := s.sp - 2
  store16 { s with sp := sp } sp v

/-- `Pop16()` (R201). -/
def pop16 (s : State) : Except Fault (Word × State) := do
  let v ← load16 s s.sp
  return (v, { s with sp := s.sp + 2 })

/-- `Push16(PC); PC <- target`: the common part of call, rst and interrupt dispatch (R203, R206, spec/60_exceptions.md
R254 "as in call"). -/
def pushPcAndJump (s : State) (target : Word) : Except Fault State := do
  let s' ← push16 s s.pc
  return { s' with pc := target }

/-! ## Interrupts (spec/60_exceptions.md section 2) -/

/-- The pending disable: its count goes down by one, and IME is cleared where it goes from 1 to 0
(spec/40_engine_step.md R132). -/
def countDisable (s : State) : State :=
  match s.diCnt with
  | .two => { s with diCnt := .one }
  | .one => { s with ime := false, diCnt := .idle }
  | .idle => s

/-- The pending enable: its count goes down by one, and IME is set where it goes from 1 to 0 (R132). -/
def countEnable (s : State) : State :=
  match s.eiCnt with
  | .two => { s with eiCnt := .one }
  | .one => { s with ime := true, eiCnt := .idle }
  | .idle => s

/-- `UpdateCountdowns()` (R132): the disable count first. -/
def updateCountdowns (s : State) : State := countEnable (countDisable s)

/-- The lines both enabled and pending: `IE & IF`, all 8 bits (R252). -/
def State.ready (s : State) : Byte := s.ie &&& s.iflag

/-- The index of the lowest set bit (R253), `none` for 0. -/
def lowestLine (ready : Byte) : Option Nat :=
  (List.range 8).find? fun n => ready.getLsbD n

/-- The vector of line `n` (R255). -/
def vector (n : Nat) : Word := 0x0040 + 8 * BitVec.ofNat 16 n

/-- TAKING AN INTERRUPT: `Dispatch(n)` (R254). The pending bit of line `n` and IME are cleared, PC is pushed, control goes
to the vector. -/
def dispatch (s : State) (n : Nat) : Except Fault State :=
  pushPcAndJump { s with iflag := s.iflag &&& ~~~(1#8 <<< n), ime := false } (vector n)

/-- RETURNING: the effect of `ret`, the one way back from an interrupt (R256; spec/44_stack_call_return.md R204). IME is
not restored. -/
def returnFromStack (s : State) : Except Fault State := do
  let (target, s) ← pop16 s
  return { s with pc := target }

/-- `InterruptCheck()` (R252): the state after it and whether it dispatched. A halted engine wakes whatever IME is; a line
number of 5 or more is fatal (R245). -/
def interruptCheck (s : State) : Except Fault (State × Bool) :=
  match lowestLine s.ready with
  | none => .ok (s, false)
  | some n =>
    let s := { s with halted := false }
    if s.ime then
      if n < 5 then do
        let s ← dispatch s n
        return (s, true)
      else throw (.invalidInterruptLine n)
    else return (s, false)

/-- The bits of IF the asserted inputs set: lines 0, 1, 3 and 4 (R251). -/
def IrqIn.mask (i : IrqIn) : Byte :=
  0#3 ++ BitVec.ofBool i.joypad ++ BitVec.ofBool i.serial ++ 0#1 ++ BitVec.ofBool i.lcdStat ++ BitVec.ofBool i.vblank

/-- No line asserted. -/
def IrqIn.none : IrqIn := ⟨false, false, false, false⟩

/-- The input of the next machine step; after the last of the list, none is asserted (log 7). -/
def State.input (s : State) : IrqIn := s.irqIn.headD IrqIn.none

/-- `IF <- IF | irq_in_mask` (R251, spec/40_engine_step.md R130): the next input is consumed; after the last, none is
asserted (log 7). -/
def mergeIrqIn (s : State) : State :=
  match s.irqIn with
  | [] => s
  | i :: rest => { s with iflag := s.iflag ||| i.mask, irqIn := rest }

end Sys2Proof.Machine
end

