-- ==== Sys2Proof/Machine/Arithmetic.lean ====
section
/-! DEFINITION. The 8-bit arithmetic of spec/42_arithmetic.md: add, subtract, compare. -/

namespace Sys2Proof.Machine

/-! ## The operations the rows share -/

/-- `(res, Z, N, H, C) <- Add8(A, v); A <- res; F <- Z:N:H:C:0000` (R172). -/
def addA (v : Byte) (s : State) : State :=
  let r := add8 s.a v
  { s with a := r.result, flags := r.flags }

/-- `(res, Z, N, H, C) <- Sub8(A, v); A <- res; F <- Z:N:H:C:0000` (R175). -/
def subA (v : Byte) (s : State) : State :=
  let r := sub8 s.a v
  { s with a := r.result, flags := r.flags }

/-- `(res, Z, N, H, C) <- Sub8(A, v); F <- Z:N:H:C:0000`, the result discarded (R178). -/
def cpA (v : Byte) (s : State) : State :=
  { s with flags := (sub8 s.a v).flags }

/-- `v <- MemRead(HL, 1)` and then `f v` (R173, R176, R179, spec/43_logic.md R191). Where the load raises, nothing is
written. -/
def withByteAtHl (f : Byte → State → State) (s : State) : Host.Outcome State Fault Refusal :=
  finish do
    let v ← load8 s s.hl
    return f v s

/-! ## `add a,x` (R172 to R174) -/

/-- `add a,b` (0x80, R172). -/
def exec_add_a_b (s : State) : Host.Outcome State Fault Refusal := .next (addA s.b s)

/-- `add a,c` (0x81, R172). -/
def exec_add_a_c (s : State) : Host.Outcome State Fault Refusal := .next (addA s.c s)

/-- `add a,d` (0x82, R172). -/
def exec_add_a_d (s : State) : Host.Outcome State Fault Refusal := .next (addA s.d s)

/-- `add a,e` (0x83, R172). -/
def exec_add_a_e (s : State) : Host.Outcome State Fault Refusal := .next (addA s.e s)

/-- `add a,h` (0x84, R172). -/
def exec_add_a_h (s : State) : Host.Outcome State Fault Refusal := .next (addA s.h s)

/-- `add a,l` (0x85, R172). -/
def exec_add_a_l (s : State) : Host.Outcome State Fault Refusal := .next (addA s.l s)

/-- `add a,a` (0x87, R172). -/
def exec_add_a_a (s : State) : Host.Outcome State Fault Refusal := .next (addA s.a s)

/-- `add a,(hl)` (0x86, R173). -/
def exec_add_a_atHl (s : State) : Host.Outcome State Fault Refusal := withByteAtHl addA s

/-- `add a,n` (0xC6, R174). -/
def exec_add_a_n (n : Byte) (s : State) : Host.Outcome State Fault Refusal := .next (addA n s)

/-! ## `sub a,x` (R175 to R177) -/

/-- `sub a,b` (0x90, R175). -/
def exec_sub_a_b (s : State) : Host.Outcome State Fault Refusal := .next (subA s.b s)

/-- `sub a,c` (0x91, R175). -/
def exec_sub_a_c (s : State) : Host.Outcome State Fault Refusal := .next (subA s.c s)

/-- `sub a,d` (0x92, R175). -/
def exec_sub_a_d (s : State) : Host.Outcome State Fault Refusal := .next (subA s.d s)

/-- `sub a,e` (0x93, R175). -/
def exec_sub_a_e (s : State) : Host.Outcome State Fault Refusal := .next (subA s.e s)

/-- `sub a,h` (0x94, R175). -/
def exec_sub_a_h (s : State) : Host.Outcome State Fault Refusal := .next (subA s.h s)

/-- `sub a,l` (0x95, R175). -/
def exec_sub_a_l (s : State) : Host.Outcome State Fault Refusal := .next (subA s.l s)

/-- `sub a,a` (0x97, R175). -/
def exec_sub_a_a (s : State) : Host.Outcome State Fault Refusal := .next (subA s.a s)

/-- `sub a,(hl)` (0x96, R176). -/
def exec_sub_a_atHl (s : State) : Host.Outcome State Fault Refusal := withByteAtHl subA s

/-- `sub a,n` (0xD6, R177). -/
def exec_sub_a_n (n : Byte) (s : State) : Host.Outcome State Fault Refusal := .next (subA n s)

/-! ## `cp a,x` (R178 to R180) -/

/-- `cp a,b` (0xB8, R178). -/
def exec_cp_a_b (s : State) : Host.Outcome State Fault Refusal := .next (cpA s.b s)

/-- `cp a,c` (0xB9, R178). -/
def exec_cp_a_c (s : State) : Host.Outcome State Fault Refusal := .next (cpA s.c s)

/-- `cp a,d` (0xBA, R178). -/
def exec_cp_a_d (s : State) : Host.Outcome State Fault Refusal := .next (cpA s.d s)

/-- `cp a,e` (0xBB, R178). -/
def exec_cp_a_e (s : State) : Host.Outcome State Fault Refusal := .next (cpA s.e s)

/-- `cp a,h` (0xBC, R178). -/
def exec_cp_a_h (s : State) : Host.Outcome State Fault Refusal := .next (cpA s.h s)

/-- `cp a,l` (0xBD, R178). -/
def exec_cp_a_l (s : State) : Host.Outcome State Fault Refusal := .next (cpA s.l s)

/-- `cp a,a` (0xBF, R178). -/
def exec_cp_a_a (s : State) : Host.Outcome State Fault Refusal := .next (cpA s.a s)

/-- `cp a,(hl)` (0xBE, R179). -/
def exec_cp_a_atHl (s : State) : Host.Outcome State Fault Refusal := withByteAtHl cpA s

/-- `cp a,n` (0xFE, R180). -/
def exec_cp_a_n (n : Byte) (s : State) : Host.Outcome State Fault Refusal := .next (cpA n s)

end Sys2Proof.Machine
end

