-- ==== Sys2Proof/Machine/Jumps.lean ====
section
/-! DEFINITION. Relative and absolute jumps of spec/45_jumps.md. None writes a flag; a bad target shows only at the next fetch. -/

namespace Sys2Proof.Machine

/-- `PC <- (PC + sext_16(e)) mod 65536` if `Cond(cc)` (R221). -/
def jrIf (cc : Cond) (e : Byte) (s : State) : Host.Outcome State Fault Refusal :=
  if s.cond cc then .next { s with pc := s.relTarget e } else .next s

/-- `jr e` (0x18, R220). -/
def exec_jr_e (e : Byte) (s : State) : Host.Outcome State Fault Refusal := .next { s with pc := s.relTarget e }

/-- `jr nz,e` (0x20, R221). -/
def exec_jr_nz_e (e : Byte) (s : State) : Host.Outcome State Fault Refusal := jrIf .nz e s

/-- `jr z,e` (0x28, R221). -/
def exec_jr_z_e (e : Byte) (s : State) : Host.Outcome State Fault Refusal := jrIf .z e s

/-- `jr nc,e` (0x30, R221). -/
def exec_jr_nc_e (e : Byte) (s : State) : Host.Outcome State Fault Refusal := jrIf .nc e s

/-- `jr c,e` (0x38, R221). -/
def exec_jr_c_e (e : Byte) (s : State) : Host.Outcome State Fault Refusal := jrIf .c e s

/-- `jp nn` (0xC3, R222). -/
def exec_jp_nn (nn : Word) (s : State) : Host.Outcome State Fault Refusal := .next { s with pc := nn }

/-- `jp hl` (0xE9, R223). -/
def exec_jp_hl (s : State) : Host.Outcome State Fault Refusal := .next { s with pc := s.hl }

end Sys2Proof.Machine
end

