-- ==== Sys2Proof/Machine/Loads.lean ====
section
/-! DEFINITION. The loads of spec/41_loads.md. None writes a flag (R161). PC is past the instruction's last byte when a meaning starts
(spec/10_state.md R24). -/

namespace Sys2Proof.Machine

/-! ## The operations the rows share -/

/-- `x[d] <- x[s]` (R150). -/
def loadRegReg (dst src : Reg8) (s : State) : Host.Outcome State Fault Refusal :=
  .next (s.setReg8 dst (s.reg8 src))

/-- `v <- MemRead(address, 1); x[d] <- v` (R151, R153, R154). Where the load raises, no register is written. -/
def loadRegMem (dst : Reg8) (address : Word) (s : State) : Host.Outcome State Fault Refusal :=
  finish do
    let v ← load8 s address
    return s.setReg8 dst v

/-- `MemWrite(address, 1, v)` (R152, R155, R156, R158). -/
def storeMem (address : Word) (v : Byte) (s : State) : Host.Outcome State Fault Refusal :=
  finish (store8 s address v)

/-- `x[d] <- n` (R157). -/
def loadRegImm (dst : Reg8) (n : Byte) (s : State) : Host.Outcome State Fault Refusal :=
  .next (s.setReg8 dst n)

/-- The pair or SP `<- nn` (R159). -/
def loadPairImm (p : Pair) (nn : Word) (s : State) : Host.Outcome State Fault Refusal :=
  .next (s.setPair p nn)

/-! ## `ld r,r'` (R150) -/

/-- `ld b,b` (0x40, R150). -/
def exec_ld_b_b (s : State) : Host.Outcome State Fault Refusal := loadRegReg .b .b s

/-- `ld b,c` (0x41, R150). -/
def exec_ld_b_c (s : State) : Host.Outcome State Fault Refusal := loadRegReg .b .c s

/-- `ld b,d` (0x42, R150). -/
def exec_ld_b_d (s : State) : Host.Outcome State Fault Refusal := loadRegReg .b .d s

/-- `ld b,e` (0x43, R150). -/
def exec_ld_b_e (s : State) : Host.Outcome State Fault Refusal := loadRegReg .b .e s

/-- `ld b,h` (0x44, R150). -/
def exec_ld_b_h (s : State) : Host.Outcome State Fault Refusal := loadRegReg .b .h s

/-- `ld b,l` (0x45, R150). -/
def exec_ld_b_l (s : State) : Host.Outcome State Fault Refusal := loadRegReg .b .l s

/-- `ld b,a` (0x47, R150). -/
def exec_ld_b_a (s : State) : Host.Outcome State Fault Refusal := loadRegReg .b .a s

/-- `ld c,b` (0x48, R150). -/
def exec_ld_c_b (s : State) : Host.Outcome State Fault Refusal := loadRegReg .c .b s

/-- `ld c,c` (0x49, R150). -/
def exec_ld_c_c (s : State) : Host.Outcome State Fault Refusal := loadRegReg .c .c s

/-- `ld c,d` (0x4A, R150). -/
def exec_ld_c_d (s : State) : Host.Outcome State Fault Refusal := loadRegReg .c .d s

/-- `ld c,e` (0x4B, R150). -/
def exec_ld_c_e (s : State) : Host.Outcome State Fault Refusal := loadRegReg .c .e s

/-- `ld c,h` (0x4C, R150). -/
def exec_ld_c_h (s : State) : Host.Outcome State Fault Refusal := loadRegReg .c .h s

/-- `ld c,l` (0x4D, R150). -/
def exec_ld_c_l (s : State) : Host.Outcome State Fault Refusal := loadRegReg .c .l s

/-- `ld c,a` (0x4F, R150). -/
def exec_ld_c_a (s : State) : Host.Outcome State Fault Refusal := loadRegReg .c .a s

/-- `ld d,b` (0x50, R150). -/
def exec_ld_d_b (s : State) : Host.Outcome State Fault Refusal := loadRegReg .d .b s

/-- `ld d,c` (0x51, R150). -/
def exec_ld_d_c (s : State) : Host.Outcome State Fault Refusal := loadRegReg .d .c s

/-- `ld d,d` (0x52, R150). -/
def exec_ld_d_d (s : State) : Host.Outcome State Fault Refusal := loadRegReg .d .d s

/-- `ld d,e` (0x53, R150). -/
def exec_ld_d_e (s : State) : Host.Outcome State Fault Refusal := loadRegReg .d .e s

/-- `ld d,h` (0x54, R150). -/
def exec_ld_d_h (s : State) : Host.Outcome State Fault Refusal := loadRegReg .d .h s

/-- `ld d,l` (0x55, R150). -/
def exec_ld_d_l (s : State) : Host.Outcome State Fault Refusal := loadRegReg .d .l s

/-- `ld d,a` (0x57, R150). -/
def exec_ld_d_a (s : State) : Host.Outcome State Fault Refusal := loadRegReg .d .a s

/-- `ld e,b` (0x58, R150). -/
def exec_ld_e_b (s : State) : Host.Outcome State Fault Refusal := loadRegReg .e .b s

/-- `ld e,c` (0x59, R150). -/
def exec_ld_e_c (s : State) : Host.Outcome State Fault Refusal := loadRegReg .e .c s

/-- `ld e,d` (0x5A, R150). -/
def exec_ld_e_d (s : State) : Host.Outcome State Fault Refusal := loadRegReg .e .d s

/-- `ld e,e` (0x5B, R150). -/
def exec_ld_e_e (s : State) : Host.Outcome State Fault Refusal := loadRegReg .e .e s

/-- `ld e,h` (0x5C, R150). -/
def exec_ld_e_h (s : State) : Host.Outcome State Fault Refusal := loadRegReg .e .h s

/-- `ld e,l` (0x5D, R150). -/
def exec_ld_e_l (s : State) : Host.Outcome State Fault Refusal := loadRegReg .e .l s

/-- `ld e,a` (0x5F, R150). -/
def exec_ld_e_a (s : State) : Host.Outcome State Fault Refusal := loadRegReg .e .a s

/-- `ld h,b` (0x60, R150). -/
def exec_ld_h_b (s : State) : Host.Outcome State Fault Refusal := loadRegReg .h .b s

/-- `ld h,c` (0x61, R150). -/
def exec_ld_h_c (s : State) : Host.Outcome State Fault Refusal := loadRegReg .h .c s

/-- `ld h,d` (0x62, R150). -/
def exec_ld_h_d (s : State) : Host.Outcome State Fault Refusal := loadRegReg .h .d s

/-- `ld h,e` (0x63, R150). -/
def exec_ld_h_e (s : State) : Host.Outcome State Fault Refusal := loadRegReg .h .e s

/-- `ld h,h` (0x64, R150). -/
def exec_ld_h_h (s : State) : Host.Outcome State Fault Refusal := loadRegReg .h .h s

/-- `ld h,l` (0x65, R150). -/
def exec_ld_h_l (s : State) : Host.Outcome State Fault Refusal := loadRegReg .h .l s

/-- `ld h,a` (0x67, R150). -/
def exec_ld_h_a (s : State) : Host.Outcome State Fault Refusal := loadRegReg .h .a s

/-- `ld l,b` (0x68, R150). -/
def exec_ld_l_b (s : State) : Host.Outcome State Fault Refusal := loadRegReg .l .b s

/-- `ld l,c` (0x69, R150). -/
def exec_ld_l_c (s : State) : Host.Outcome State Fault Refusal := loadRegReg .l .c s

/-- `ld l,d` (0x6A, R150). -/
def exec_ld_l_d (s : State) : Host.Outcome State Fault Refusal := loadRegReg .l .d s

/-- `ld l,e` (0x6B, R150). -/
def exec_ld_l_e (s : State) : Host.Outcome State Fault Refusal := loadRegReg .l .e s

/-- `ld l,h` (0x6C, R150). -/
def exec_ld_l_h (s : State) : Host.Outcome State Fault Refusal := loadRegReg .l .h s

/-- `ld l,l` (0x6D, R150). -/
def exec_ld_l_l (s : State) : Host.Outcome State Fault Refusal := loadRegReg .l .l s

/-- `ld l,a` (0x6F, R150). -/
def exec_ld_l_a (s : State) : Host.Outcome State Fault Refusal := loadRegReg .l .a s

/-- `ld a,b` (0x78, R150). -/
def exec_ld_a_b (s : State) : Host.Outcome State Fault Refusal := loadRegReg .a .b s

/-- `ld a,c` (0x79, R150). -/
def exec_ld_a_c (s : State) : Host.Outcome State Fault Refusal := loadRegReg .a .c s

/-- `ld a,d` (0x7A, R150). -/
def exec_ld_a_d (s : State) : Host.Outcome State Fault Refusal := loadRegReg .a .d s

/-- `ld a,e` (0x7B, R150). -/
def exec_ld_a_e (s : State) : Host.Outcome State Fault Refusal := loadRegReg .a .e s

/-- `ld a,h` (0x7C, R150). -/
def exec_ld_a_h (s : State) : Host.Outcome State Fault Refusal := loadRegReg .a .h s

/-- `ld a,l` (0x7D, R150). -/
def exec_ld_a_l (s : State) : Host.Outcome State Fault Refusal := loadRegReg .a .l s

/-- `ld a,a` (0x7F, R150). -/
def exec_ld_a_a (s : State) : Host.Outcome State Fault Refusal := loadRegReg .a .a s

/-! ## `ld r,(hl)` (R151): the address is HL before the write -/

/-- `ld b,(hl)` (0x46, R151). -/
def exec_ld_b_atHl (s : State) : Host.Outcome State Fault Refusal := loadRegMem .b s.hl s

/-- `ld c,(hl)` (0x4E, R151). -/
def exec_ld_c_atHl (s : State) : Host.Outcome State Fault Refusal := loadRegMem .c s.hl s

/-- `ld d,(hl)` (0x56, R151). -/
def exec_ld_d_atHl (s : State) : Host.Outcome State Fault Refusal := loadRegMem .d s.hl s

/-- `ld e,(hl)` (0x5E, R151). -/
def exec_ld_e_atHl (s : State) : Host.Outcome State Fault Refusal := loadRegMem .e s.hl s

/-- `ld h,(hl)` (0x66, R151). -/
def exec_ld_h_atHl (s : State) : Host.Outcome State Fault Refusal := loadRegMem .h s.hl s

/-- `ld l,(hl)` (0x6E, R151). -/
def exec_ld_l_atHl (s : State) : Host.Outcome State Fault Refusal := loadRegMem .l s.hl s

/-- `ld a,(hl)` (0x7E, R151). -/
def exec_ld_a_atHl (s : State) : Host.Outcome State Fault Refusal := loadRegMem .a s.hl s

/-! ## `ld (hl),r` (R152) -/

/-- `ld (hl),b` (0x70, R152). -/
def exec_ld_atHl_b (s : State) : Host.Outcome State Fault Refusal := storeMem s.hl s.b s

/-- `ld (hl),c` (0x71, R152). -/
def exec_ld_atHl_c (s : State) : Host.Outcome State Fault Refusal := storeMem s.hl s.c s

/-- `ld (hl),d` (0x72, R152). -/
def exec_ld_atHl_d (s : State) : Host.Outcome State Fault Refusal := storeMem s.hl s.d s

/-- `ld (hl),e` (0x73, R152). -/
def exec_ld_atHl_e (s : State) : Host.Outcome State Fault Refusal := storeMem s.hl s.e s

/-- `ld (hl),h` (0x74, R152). -/
def exec_ld_atHl_h (s : State) : Host.Outcome State Fault Refusal := storeMem s.hl s.h s

/-- `ld (hl),l` (0x75, R152). -/
def exec_ld_atHl_l (s : State) : Host.Outcome State Fault Refusal := storeMem s.hl s.l s

/-- `ld (hl),a` (0x77, R152). -/
def exec_ld_atHl_a (s : State) : Host.Outcome State Fault Refusal := storeMem s.hl s.a s

/-! ## Loads and stores of A through BC and DE (R153 to R156) -/

/-- `ld a,(bc)` (0x0A, R153). -/
def exec_ld_a_atBc (s : State) : Host.Outcome State Fault Refusal := loadRegMem .a s.bc s

/-- `ld a,(de)` (0x1A, R154). -/
def exec_ld_a_atDe (s : State) : Host.Outcome State Fault Refusal := loadRegMem .a s.de s

/-- `ld (bc),a` (0x02, R155). -/
def exec_ld_atBc_a (s : State) : Host.Outcome State Fault Refusal := storeMem s.bc s.a s

/-- `ld (de),a` (0x12, R156). -/
def exec_ld_atDe_a (s : State) : Host.Outcome State Fault Refusal := storeMem s.de s.a s

/-! ## Immediates (R157 to R159) and `ld sp,hl` (R160) -/

/-- `ld b,n` (0x06, R157). -/
def exec_ld_b_n (n : Byte) (s : State) : Host.Outcome State Fault Refusal := loadRegImm .b n s

/-- `ld c,n` (0x0E, R157). -/
def exec_ld_c_n (n : Byte) (s : State) : Host.Outcome State Fault Refusal := loadRegImm .c n s

/-- `ld d,n` (0x16, R157). -/
def exec_ld_d_n (n : Byte) (s : State) : Host.Outcome State Fault Refusal := loadRegImm .d n s

/-- `ld e,n` (0x1E, R157). -/
def exec_ld_e_n (n : Byte) (s : State) : Host.Outcome State Fault Refusal := loadRegImm .e n s

/-- `ld h,n` (0x26, R157). -/
def exec_ld_h_n (n : Byte) (s : State) : Host.Outcome State Fault Refusal := loadRegImm .h n s

/-- `ld l,n` (0x2E, R157). -/
def exec_ld_l_n (n : Byte) (s : State) : Host.Outcome State Fault Refusal := loadRegImm .l n s

/-- `ld a,n` (0x3E, R157). -/
def exec_ld_a_n (n : Byte) (s : State) : Host.Outcome State Fault Refusal := loadRegImm .a n s

/-- `ld (hl),n` (0x36, R158). -/
def exec_ld_atHl_n (n : Byte) (s : State) : Host.Outcome State Fault Refusal := storeMem s.hl n s

/-- `ld bc,nn` (0x01, R159). -/
def exec_ld_bc_nn (nn : Word) (s : State) : Host.Outcome State Fault Refusal := loadPairImm .bc nn s

/-- `ld de,nn` (0x11, R159). -/
def exec_ld_de_nn (nn : Word) (s : State) : Host.Outcome State Fault Refusal := loadPairImm .de nn s

/-- `ld hl,nn` (0x21, R159). -/
def exec_ld_hl_nn (nn : Word) (s : State) : Host.Outcome State Fault Refusal := loadPairImm .hl nn s

/-- `ld sp,nn` (0x31, R159). -/
def exec_ld_sp_nn (nn : Word) (s : State) : Host.Outcome State Fault Refusal := loadPairImm .sp nn s

/-- `ld sp,hl` (0xF9, R160). -/
def exec_ld_sp_hl (s : State) : Host.Outcome State Fault Refusal := .next { s with sp := s.hl }

end Sys2Proof.Machine
end

