-- ==== Sys2Proof/Machine/Logic.lean ====
section
/-! DEFINITION. The logical xor of spec/43_logic.md, the one logical operation. -/

namespace Sys2Proof.Machine

/-- `res <- A xor v; A <- res; F <- (res = 0):0:0:0:0000` (R190). -/
def xorA (v : Byte) (s : State) : State :=
  let r := xor8 s.a v
  { s with a := r.result, flags := r.flags }

/-- `xor a,b` (0xA8, R190). -/
def exec_xor_a_b (s : State) : Host.Outcome State Fault Refusal := .next (xorA s.b s)

/-- `xor a,c` (0xA9, R190). -/
def exec_xor_a_c (s : State) : Host.Outcome State Fault Refusal := .next (xorA s.c s)

/-- `xor a,d` (0xAA, R190). -/
def exec_xor_a_d (s : State) : Host.Outcome State Fault Refusal := .next (xorA s.d s)

/-- `xor a,e` (0xAB, R190). -/
def exec_xor_a_e (s : State) : Host.Outcome State Fault Refusal := .next (xorA s.e s)

/-- `xor a,h` (0xAC, R190). -/
def exec_xor_a_h (s : State) : Host.Outcome State Fault Refusal := .next (xorA s.h s)

/-- `xor a,l` (0xAD, R190). -/
def exec_xor_a_l (s : State) : Host.Outcome State Fault Refusal := .next (xorA s.l s)

/-- `xor a,a` (0xAF, R190). -/
def exec_xor_a_a (s : State) : Host.Outcome State Fault Refusal := .next (xorA s.a s)

/-- `xor a,(hl)` (0xAE, R191). -/
def exec_xor_a_atHl (s : State) : Host.Outcome State Fault Refusal := withByteAtHl xorA s

/-- `xor a,n` (0xEE, R192). -/
def exec_xor_a_n (n : Byte) (s : State) : Host.Outcome State Fault Refusal := .next (xorA n s)

end Sys2Proof.Machine
end

