-- ==== Sys2Proof/Machine/Stack.lean ====
section
/-! DEFINITION. Stack operations, call, return and restart of spec/44_stack_call_return.md. None writes a flag. `PC` is the address
after the instruction's operand bytes, the return address of call and rst. -/

namespace Sys2Proof.Machine

/-! ## The operations the rows share -/

/-- `Push16(pair)` (R202). -/
def pushPairOp (p : PushPair) (s : State) : Host.Outcome State Fault Refusal :=
  finish (push16 s (s.pushPair p))

/-- `if Cond(cc) then PC <- Pop16()` (R205). Not taken, nothing is read. -/
def retIf (cc : Cond) (s : State) : Host.Outcome State Fault Refusal :=
  if s.cond cc then finish (returnFromStack s) else .next s

/-- `Push16(PC); PC <- 8 * t` (R206). -/
def rstTo (t : BitVec 3) (s : State) : Host.Outcome State Fault Refusal :=
  finish (pushPcAndJump s (8 * t.setWidth 16))

/-! ## The instructions -/

/-- `push bc` (0xC5, R202). -/
def exec_push_bc (s : State) : Host.Outcome State Fault Refusal := pushPairOp .bc s

/-- `push de` (0xD5, R202). -/
def exec_push_de (s : State) : Host.Outcome State Fault Refusal := pushPairOp .de s

/-- `push hl` (0xE5, R202). -/
def exec_push_hl (s : State) : Host.Outcome State Fault Refusal := pushPairOp .hl s

/-- `push af` (0xF5, R202). -/
def exec_push_af (s : State) : Host.Outcome State Fault Refusal := pushPairOp .af s

/-- `call nn` (0xCD, R203). -/
def exec_call_nn (nn : Word) (s : State) : Host.Outcome State Fault Refusal := finish (pushPcAndJump s nn)

/-- `ret` (0xC9, R204). -/
def exec_ret (s : State) : Host.Outcome State Fault Refusal := finish (returnFromStack s)

/-- `ret nz` (0xC0, R205). -/
def exec_ret_nz (s : State) : Host.Outcome State Fault Refusal := retIf .nz s

/-- `ret z` (0xC8, R205). -/
def exec_ret_z (s : State) : Host.Outcome State Fault Refusal := retIf .z s

/-- `ret nc` (0xD0, R205). -/
def exec_ret_nc (s : State) : Host.Outcome State Fault Refusal := retIf .nc s

/-- `ret c` (0xD8, R205). -/
def exec_ret_c (s : State) : Host.Outcome State Fault Refusal := retIf .c s

/-- `rst 0x00` (0xC7, R206). -/
def exec_rst_0x00 (s : State) : Host.Outcome State Fault Refusal := rstTo 0 s

/-- `rst 0x08` (0xCF, R206). -/
def exec_rst_0x08 (s : State) : Host.Outcome State Fault Refusal := rstTo 1 s

/-- `rst 0x10` (0xD7, R206). -/
def exec_rst_0x10 (s : State) : Host.Outcome State Fault Refusal := rstTo 2 s

/-- `rst 0x18` (0xDF, R206). -/
def exec_rst_0x18 (s : State) : Host.Outcome State Fault Refusal := rstTo 3 s

/-- `rst 0x20` (0xE7, R206). -/
def exec_rst_0x20 (s : State) : Host.Outcome State Fault Refusal := rstTo 4 s

/-- `rst 0x28` (0xEF, R206). -/
def exec_rst_0x28 (s : State) : Host.Outcome State Fault Refusal := rstTo 5 s

/-- `rst 0x30` (0xF7, R206). -/
def exec_rst_0x30 (s : State) : Host.Outcome State Fault Refusal := rstTo 6 s

/-- `rst 0x38` (0xFF, R206). -/
def exec_rst_0x38 (s : State) : Host.Outcome State Fault Refusal := rstTo 7 s

end Sys2Proof.Machine
end

