-- ==== Sys2Proof/Machine/System.lean ====
section
/-! DEFINITION. Interrupt-flag toggles, halt and the prefix byte of spec/46_system.md. `di` and `ei` arm a countdown and leave IME. -/

namespace Sys2Proof.Machine

/-- `di` (0xF3, R230). -/
def exec_di (s : State) : Host.Outcome State Fault Refusal := .next { s with diCnt := .two }

/-- `ei` (0xFB, R231). -/
def exec_ei (s : State) : Host.Outcome State Fault Refusal := .next { s with eiCnt := .two }

/-- `halt` (0x76, R232). -/
def exec_halt (s : State) : Host.Outcome State Fault Refusal := .next { s with halted := true }

/-- The prefix byte (0xCB, R233): "raise UnsupportedPrefix()", always; the byte after it is not fetched. -/
def exec_prefix_0xCB (_s : State) : Host.Outcome State Fault Refusal := .fault .unsupportedPrefix

end Sys2Proof.Machine
end

