-- ==== Sys2Proof/Machine/Dispatch.lean ====
section
/-! DEFINITION. The dispatch from an instruction to its meaning, one arm per row of spec/opcode_table.json. -/

namespace Sys2Proof.Machine

def exec (i : Instr) (s : State) : Host.Outcome State Fault Refusal :=
  match i with
  | .ld_bc_nn nn => Sys2Proof.Machine.exec_ld_bc_nn nn s
  | .ld__bc__a => Sys2Proof.Machine.exec_ld_atBc_a s
  | .ld_b_n n => Sys2Proof.Machine.exec_ld_b_n n s
  | .ld_a__bc => Sys2Proof.Machine.exec_ld_a_atBc s
  | .ld_c_n n => Sys2Proof.Machine.exec_ld_c_n n s
  | .ld_de_nn nn => Sys2Proof.Machine.exec_ld_de_nn nn s
  | .ld__de__a => Sys2Proof.Machine.exec_ld_atDe_a s
  | .ld_d_n n => Sys2Proof.Machine.exec_ld_d_n n s
  | .jr_e e => Sys2Proof.Machine.exec_jr_e e s
  | .ld_a__de => Sys2Proof.Machine.exec_ld_a_atDe s
  | .ld_e_n n => Sys2Proof.Machine.exec_ld_e_n n s
  | .jr_nz_e e => Sys2Proof.Machine.exec_jr_nz_e e s
  | .ld_hl_nn nn => Sys2Proof.Machine.exec_ld_hl_nn nn s
  | .ld_h_n n => Sys2Proof.Machine.exec_ld_h_n n s
  | .jr_z_e e => Sys2Proof.Machine.exec_jr_z_e e s
  | .ld_l_n n => Sys2Proof.Machine.exec_ld_l_n n s
  | .jr_nc_e e => Sys2Proof.Machine.exec_jr_nc_e e s
  | .ld_sp_nn nn => Sys2Proof.Machine.exec_ld_sp_nn nn s
  | .ld__hl__n n => Sys2Proof.Machine.exec_ld_atHl_n n s
  | .jr_c_e e => Sys2Proof.Machine.exec_jr_c_e e s
  | .ld_a_n n => Sys2Proof.Machine.exec_ld_a_n n s
  | .ld_b_b => Sys2Proof.Machine.exec_ld_b_b s
  | .ld_b_c => Sys2Proof.Machine.exec_ld_b_c s
  | .ld_b_d => Sys2Proof.Machine.exec_ld_b_d s
  | .ld_b_e => Sys2Proof.Machine.exec_ld_b_e s
  | .ld_b_h => Sys2Proof.Machine.exec_ld_b_h s
  | .ld_b_l => Sys2Proof.Machine.exec_ld_b_l s
  | .ld_b__hl => Sys2Proof.Machine.exec_ld_b_atHl s
  | .ld_b_a => Sys2Proof.Machine.exec_ld_b_a s
  | .ld_c_b => Sys2Proof.Machine.exec_ld_c_b s
  | .ld_c_c => Sys2Proof.Machine.exec_ld_c_c s
  | .ld_c_d => Sys2Proof.Machine.exec_ld_c_d s
  | .ld_c_e => Sys2Proof.Machine.exec_ld_c_e s
  | .ld_c_h => Sys2Proof.Machine.exec_ld_c_h s
  | .ld_c_l => Sys2Proof.Machine.exec_ld_c_l s
  | .ld_c__hl => Sys2Proof.Machine.exec_ld_c_atHl s
  | .ld_c_a => Sys2Proof.Machine.exec_ld_c_a s
  | .ld_d_b => Sys2Proof.Machine.exec_ld_d_b s
  | .ld_d_c => Sys2Proof.Machine.exec_ld_d_c s
  | .ld_d_d => Sys2Proof.Machine.exec_ld_d_d s
  | .ld_d_e => Sys2Proof.Machine.exec_ld_d_e s
  | .ld_d_h => Sys2Proof.Machine.exec_ld_d_h s
  | .ld_d_l => Sys2Proof.Machine.exec_ld_d_l s
  | .ld_d__hl => Sys2Proof.Machine.exec_ld_d_atHl s
  | .ld_d_a => Sys2Proof.Machine.exec_ld_d_a s
  | .ld_e_b => Sys2Proof.Machine.exec_ld_e_b s
  | .ld_e_c => Sys2Proof.Machine.exec_ld_e_c s
  | .ld_e_d => Sys2Proof.Machine.exec_ld_e_d s
  | .ld_e_e => Sys2Proof.Machine.exec_ld_e_e s
  | .ld_e_h => Sys2Proof.Machine.exec_ld_e_h s
  | .ld_e_l => Sys2Proof.Machine.exec_ld_e_l s
  | .ld_e__hl => Sys2Proof.Machine.exec_ld_e_atHl s
  | .ld_e_a => Sys2Proof.Machine.exec_ld_e_a s
  | .ld_h_b => Sys2Proof.Machine.exec_ld_h_b s
  | .ld_h_c => Sys2Proof.Machine.exec_ld_h_c s
  | .ld_h_d => Sys2Proof.Machine.exec_ld_h_d s
  | .ld_h_e => Sys2Proof.Machine.exec_ld_h_e s
  | .ld_h_h => Sys2Proof.Machine.exec_ld_h_h s
  | .ld_h_l => Sys2Proof.Machine.exec_ld_h_l s
  | .ld_h__hl => Sys2Proof.Machine.exec_ld_h_atHl s
  | .ld_h_a => Sys2Proof.Machine.exec_ld_h_a s
  | .ld_l_b => Sys2Proof.Machine.exec_ld_l_b s
  | .ld_l_c => Sys2Proof.Machine.exec_ld_l_c s
  | .ld_l_d => Sys2Proof.Machine.exec_ld_l_d s
  | .ld_l_e => Sys2Proof.Machine.exec_ld_l_e s
  | .ld_l_h => Sys2Proof.Machine.exec_ld_l_h s
  | .ld_l_l => Sys2Proof.Machine.exec_ld_l_l s
  | .ld_l__hl => Sys2Proof.Machine.exec_ld_l_atHl s
  | .ld_l_a => Sys2Proof.Machine.exec_ld_l_a s
  | .ld__hl__b => Sys2Proof.Machine.exec_ld_atHl_b s
  | .ld__hl__c => Sys2Proof.Machine.exec_ld_atHl_c s
  | .ld__hl__d => Sys2Proof.Machine.exec_ld_atHl_d s
  | .ld__hl__e => Sys2Proof.Machine.exec_ld_atHl_e s
  | .ld__hl__h => Sys2Proof.Machine.exec_ld_atHl_h s
  | .ld__hl__l => Sys2Proof.Machine.exec_ld_atHl_l s
  | .halt => Sys2Proof.Machine.exec_halt s
  | .ld__hl__a => Sys2Proof.Machine.exec_ld_atHl_a s
  | .ld_a_b => Sys2Proof.Machine.exec_ld_a_b s
  | .ld_a_c => Sys2Proof.Machine.exec_ld_a_c s
  | .ld_a_d => Sys2Proof.Machine.exec_ld_a_d s
  | .ld_a_e => Sys2Proof.Machine.exec_ld_a_e s
  | .ld_a_h => Sys2Proof.Machine.exec_ld_a_h s
  | .ld_a_l => Sys2Proof.Machine.exec_ld_a_l s
  | .ld_a__hl => Sys2Proof.Machine.exec_ld_a_atHl s
  | .ld_a_a => Sys2Proof.Machine.exec_ld_a_a s
  | .add_a_b => Sys2Proof.Machine.exec_add_a_b s
  | .add_a_c => Sys2Proof.Machine.exec_add_a_c s
  | .add_a_d => Sys2Proof.Machine.exec_add_a_d s
  | .add_a_e => Sys2Proof.Machine.exec_add_a_e s
  | .add_a_h => Sys2Proof.Machine.exec_add_a_h s
  | .add_a_l => Sys2Proof.Machine.exec_add_a_l s
  | .add_a__hl => Sys2Proof.Machine.exec_add_a_atHl s
  | .add_a_a => Sys2Proof.Machine.exec_add_a_a s
  | .sub_a_b => Sys2Proof.Machine.exec_sub_a_b s
  | .sub_a_c => Sys2Proof.Machine.exec_sub_a_c s
  | .sub_a_d => Sys2Proof.Machine.exec_sub_a_d s
  | .sub_a_e => Sys2Proof.Machine.exec_sub_a_e s
  | .sub_a_h => Sys2Proof.Machine.exec_sub_a_h s
  | .sub_a_l => Sys2Proof.Machine.exec_sub_a_l s
  | .sub_a__hl => Sys2Proof.Machine.exec_sub_a_atHl s
  | .sub_a_a => Sys2Proof.Machine.exec_sub_a_a s
  | .xor_a_b => Sys2Proof.Machine.exec_xor_a_b s
  | .xor_a_c => Sys2Proof.Machine.exec_xor_a_c s
  | .xor_a_d => Sys2Proof.Machine.exec_xor_a_d s
  | .xor_a_e => Sys2Proof.Machine.exec_xor_a_e s
  | .xor_a_h => Sys2Proof.Machine.exec_xor_a_h s
  | .xor_a_l => Sys2Proof.Machine.exec_xor_a_l s
  | .xor_a__hl => Sys2Proof.Machine.exec_xor_a_atHl s
  | .xor_a_a => Sys2Proof.Machine.exec_xor_a_a s
  | .cp_a_b => Sys2Proof.Machine.exec_cp_a_b s
  | .cp_a_c => Sys2Proof.Machine.exec_cp_a_c s
  | .cp_a_d => Sys2Proof.Machine.exec_cp_a_d s
  | .cp_a_e => Sys2Proof.Machine.exec_cp_a_e s
  | .cp_a_h => Sys2Proof.Machine.exec_cp_a_h s
  | .cp_a_l => Sys2Proof.Machine.exec_cp_a_l s
  | .cp_a__hl => Sys2Proof.Machine.exec_cp_a_atHl s
  | .cp_a_a => Sys2Proof.Machine.exec_cp_a_a s
  | .ret_nz => Sys2Proof.Machine.exec_ret_nz s
  | .jp_nn nn => Sys2Proof.Machine.exec_jp_nn nn s
  | .push_bc => Sys2Proof.Machine.exec_push_bc s
  | .add_a_n n => Sys2Proof.Machine.exec_add_a_n n s
  | .rst_0x00 => Sys2Proof.Machine.exec_rst_0x00 s
  | .ret_z => Sys2Proof.Machine.exec_ret_z s
  | .ret => Sys2Proof.Machine.exec_ret s
  | .prefix_0xCB => Sys2Proof.Machine.exec_prefix_0xCB s
  | .call_nn nn => Sys2Proof.Machine.exec_call_nn nn s
  | .rst_0x08 => Sys2Proof.Machine.exec_rst_0x08 s
  | .ret_nc => Sys2Proof.Machine.exec_ret_nc s
  | .push_de => Sys2Proof.Machine.exec_push_de s
  | .sub_a_n n => Sys2Proof.Machine.exec_sub_a_n n s
  | .rst_0x10 => Sys2Proof.Machine.exec_rst_0x10 s
  | .ret_c => Sys2Proof.Machine.exec_ret_c s
  | .rst_0x18 => Sys2Proof.Machine.exec_rst_0x18 s
  | .push_hl => Sys2Proof.Machine.exec_push_hl s
  | .rst_0x20 => Sys2Proof.Machine.exec_rst_0x20 s
  | .jp_hl => Sys2Proof.Machine.exec_jp_hl s
  | .xor_a_n n => Sys2Proof.Machine.exec_xor_a_n n s
  | .rst_0x28 => Sys2Proof.Machine.exec_rst_0x28 s
  | .di => Sys2Proof.Machine.exec_di s
  | .push_af => Sys2Proof.Machine.exec_push_af s
  | .rst_0x30 => Sys2Proof.Machine.exec_rst_0x30 s
  | .ld_sp_hl => Sys2Proof.Machine.exec_ld_sp_hl s
  | .ei => Sys2Proof.Machine.exec_ei s
  | .cp_a_n n => Sys2Proof.Machine.exec_cp_a_n n s
  | .rst_0x38 => Sys2Proof.Machine.exec_rst_0x38 s

end Sys2Proof.Machine
end

