-- ==== Sys2Proof/Machine/Timer.lean ====
section
/-! DEFINITION. The timer of spec/60_exceptions.md section 4, advanced once per machine step with the cycles the engine step
reported (R261). -/

namespace Sys2Proof.Machine

/-- `Period(TAC[1:0])`: cycles per tick of the counter (R264). -/
def period (tac : Byte) : Nat :=
  match (tac.extractLsb' 0 2).toNat with
  | 0 => 1024
  | 1 => 16
  | 2 => 64
  | _ => 256

/-- `TAC[2]`, the counter enable (R264). -/
def counterEnabled (tac : Byte) : Bool := tac.getLsbD 2

/-- One tick of the counter: from 0xFF it reloads from `tma` and raises the line (R263). -/
def tick (tma : Byte) (counter : Byte × Bool) : Byte × Bool :=
  if counter.1 = 0xFF then (tma, true) else (counter.1 + 1, counter.2)

/-- `n` ticks in turn; the line stays raised once one of them overflowed (R263). -/
def ticks (tma : Byte) (n : Nat) (counter : Byte × Bool) : Byte × Bool :=
  match n with
  | 0 => counter
  | n + 1 => ticks tma n (tick tma counter)

/-- `AdvanceDivider(c)` (R262): free-running, mod 65536. -/
def advanceDivider (c : Nat) (s : State) : State :=
  { s with divc := s.divc + BitVec.ofNat 16 c }

/-- `AdvanceCounter(c)` (R263): the state and whether the counter overflowed. The loop of R263 takes one period from the
accumulator for each tick, so it makes the quotient's number of ticks and leaves the remainder (log 16). -/
def advanceCounter (c : Nat) (s : State) : State × Bool :=
  if counterEnabled s.tac then
    let total := s.timaAcc + c
    let counter := ticks s.tma (total / period s.tac) (s.tima, false)
    ({ s with tima := counter.1, timaAcc := total % period s.tac }, counter.2)
  else (s, false)

/-- `TimerAdvance(c)` (R261): the divider, then the counter; an overflow sets pending bit 2. -/
def timerAdvance (c : Nat) (s : State) : State :=
  let r := advanceCounter c (advanceDivider c s)
  if r.2 then { r.1 with iflag := r.1.iflag ||| 0x04 } else r.1

end Sys2Proof.Machine
end

