-- ==== Sys2Proof/Machine/Engine.lean ====
section
/-! DEFINITION. One machine step (spec/40_engine_step.md R130): the engine step of R131, the timer, the inputs. Within a step
the machine is handled with its arguments at hand (`State`); from one step to the next it is `CoreState` alone, and
`CoreState.step` takes the arguments anew each time (spec/10_state.md R36). -/

namespace Sys2Proof.Machine

/-- The end of a machine step whose engine step reported `cycles` (R130): the timer is advanced, then the inputs are
merged. -/
def endStep (cycles : Nat) (s : State) : State := mergeIrqIn (timerAdvance cycles s)

/-- The end of an engine step that ran an action: where it raised, the timer and the inputs do not follow (R130, R138). -/
def endAction (cycles : Nat) (result : Host.Outcome State Fault Refusal) : Host.Outcome State Fault Refusal :=
  match result with
  | .next s => .next (endStep cycles s)
  | .fault f => .fault f
  | .refused r => .refused r

/-- `FetchDecodeExecute()` (R135) and the end of the machine step. -/
def runInstr (s : State) : Host.Outcome State Fault Refusal :=
  match fetchInstr s with
  | .error f => .fault f
  | .ok (i, s) => endAction (s.cycles i.opcode (s.taken i)) (exec i s)

/-- `MachineStep()` (R130, R131): the countdowns, the interrupt check, and then a dispatch, an idle step or an
instruction. -/
def machineStep (s : State) : Host.Outcome State Fault Refusal :=
  match interruptCheck (updateCountdowns s) with
  | .error f => .fault f
  | .ok (s, dispatched) =>
    if dispatched then .next (endStep s.params.cycIrq.cycles s)
    else if s.halted then .next (endStep s.params.cycHalt.cycles s)
    else runInstr s

/-! ## The step of the machine, and the system that drives it -/

/-- One machine step of THE MACHINE: a function of the parameters and of this step's input, both arguments (spec/00_scope.md
R5, spec/60_exceptions.md R251), from what spec/10_state.md R35 lists to what it lists. Nothing R36 excludes is kept. -/
def CoreState.step (params : Params) (input : IrqIn) (m : CoreState) : Host.Outcome CoreState Fault Refusal :=
  match machineStep { toCoreState := m, irqIn := [input], params := params } with
  | .next s => .next s.toCoreState
  | .fault f => .fault f
  | .refused r => .refused r

/-- The driving loop's part (R130): the machine is stepped with the parameters and with the next of the inputs; the
parameters are handed on as they are, and the inputs without their first (log 1, log 7). -/
def drive (s : State) : Host.Outcome State Fault Refusal :=
  match s.toCoreState.step s.params s.input with
  | .next m => .next { toCoreState := m, irqIn := s.irqIn.tail, params := s.params }
  | .fault f => .fault f
  | .refused r => .refused r

/-! ## Placing an instruction where the next step fetches it -/

/-- Whether a byte can be placed at an address from outside: the ROM windows and the RAM windows. -/
def placeable (address : Word) : Bool :=
  match window address with
  | .rom | .romBank | .externalRam | .workingRam | .echoRam | .highRam => true
  | .videoRam | .oam | .unusable | .io | .interruptEnable => false

/-- A byte placed at an address from outside, into the ROM image (made long enough to hold it) or RAM. -/
def place (s : State) (address : Word) (v : Byte) : State :=
  match window address with
  | .rom | .romBank =>
    { s with params := { s.params with
        rom := Memory.set s.params.rom address.toNat v
        romExtra := max s.params.romExtra (address.toNat + 1 - Config.romLenMin) } }
  | .externalRam | .workingRam | .echoRam | .highRam => { s with mem := Memory.set s.mem (cellKey address) v }
  | .videoRam | .oam | .unusable | .io | .interruptEnable => s

/-- Bytes placed at ascending addresses. -/
def placeAll (s : State) (address : Word) (bytes : List Byte) : State :=
  match bytes with
  | [] => s
  | v :: rest => placeAll (place s address v) (address + 1) rest

/-- The state a fetch can start from: running, with no line that the next interrupt check would take, and PC where three
bytes can be placed. Each part is changed only where it stands in the way (log 20). -/
def readyToFetch (s : State) : State :=
  let ime := (updateCountdowns s).ime
  let s := { s with halted := false }
  let s := if ime then { s with iflag := s.iflag &&& ~~~s.ie } else s
  if placeable s.pc && placeable (s.pc + 1) && placeable (s.pc + 2) then s else { s with pc := 0xC000 }

end Sys2Proof.Machine
end

