-- ==== Sys2Proof/Machine/Step.lean ====
section
/-! DEFINITION. The step of the machine, and how a program's first instruction is placed. -/

namespace Sys2Proof.Machine

/-- One machine step (spec/40_engine_step.md R130): `CoreState.step` on the machine, with the arguments that stand beside it. -/
def step (s : State) : Host.Outcome State Fault Refusal := drive s

/-- The instruction whose bits are `w` placed where the next step fetches: at PC, in the ROM image after reset. It stands
for the host's load of the cartridge image (spec/70_reset_and_hazards.md R309; log 3, log 20). -/
def State.withFetchWord (s : State) (nbits w : Nat) : State :=
  let s := readyToFetch s
  placeAll s s.pc (tableBytes nbits w)

end Sys2Proof.Machine
end

