-- ==== Sys2Proof/Safety.lean ====
section
/-! DEFINITION. What the claims about a run are stated in: the invariant of a state, a run without a fault, the end of a
program (spec/70_reset_and_hazards.md R308), and what it means that a part of the state is left alone. -/

namespace Sys2Proof.Machine

/-! ## The invariant -/

/-- The keys that may have a cell in `State.mem`: the bytes of XRAM, WRAM and HRAM (spec/10_state.md R33). -/
abbrev ramKey (key : Nat) : Prop := (0xA000 ≤ key ∧ key < 0xE000) ∨ (0xFF80 ≤ key ∧ key < 0xFFFF)

/-- The invariant of a state between two machine steps: memory and the ROM image are in canonical form and list only bytes
that exist, and the accumulator is below the longest period (spec/10_state.md R31: "always less than 1024 between machine
steps"). -/
abbrev State.Inv (s : State) : Prop :=
  Memory.wf s.mem ∧ (∀ cell ∈ s.mem, ramKey cell.1) ∧
  Memory.wf s.params.rom ∧ (∀ cell ∈ s.params.rom, cell.1 < s.romLen) ∧
  s.timaAcc < 1024

/-! ## Runs -/

/-- `k` machine steps from `s` end in `t` and none of them stops. -/
abbrev RunsTo (k : Nat) (s t : State) : Prop := Host.Core.run Sys2Proof.core k s = .next t

/-- `k` machine steps from `s` meet no fatal error. -/
def SafeFor (k : Nat) (s : State) : Prop := ∃ t, RunsTo k s t

/-- The end of a program by the convention of spec/70_reset_and_hazards.md R308: halted with `IE = 0x00`. -/
abbrev State.ended (s : State) : Prop := s.halted = true ∧ s.ie = 0x00

/-! ## Parts of the state left alone -/

/-- Every general register but the listed ones holds what it held. -/
def SameRegs (but : List Reg8) (s t : State) : Prop := ∀ r, r ∉ but → t.reg8 r = s.reg8 r

/-- Every byte of the address space reads as it read. -/
def SameMemory (s t : State) : Prop := ∀ a, load8 t a = load8 s a

/-- The special registers no bus address reaches, or reaches only in part: IME, `halted`, the countdowns, `tima_acc`, the
whole divider, and with them the inputs to come and the parameters. -/
def SameHidden (s t : State) : Prop :=
  t.ime = s.ime ∧ t.halted = s.halted ∧ t.eiCnt = s.eiCnt ∧ t.diCnt = s.diCnt ∧ t.timaAcc = s.timaAcc ∧
  t.divc = s.divc ∧ t.irqIn = s.irqIn ∧ t.params = s.params

/-- The special registers with a bus address: the interrupt masks, the timer and the serial registers. -/
def SameDevices (s t : State) : Prop :=
  t.ie = s.ie ∧ t.iflag = s.iflag ∧ t.tima = s.tima ∧ t.tma = s.tma ∧ t.tac = s.tac ∧ t.sb = s.sb ∧ t.sc = s.sc

/-- Two addresses name the same byte: an echo address names the working RAM byte 0x2000 below (spec/20_memory.md R68). -/
def SameByte (a b : Word) : Prop := cellKey a = cellKey b

/-! ## Which addresses an access may use (spec/60_exceptions.md R243, by its numbers) -/

/-- No load from the address is fatal. -/
def LoadMapped (s : State) (address : Word) : Prop :=
  let a := address.toNat
  ¬ (0x8000 ≤ a ∧ a ≤ 0x9FFF) ∧ ¬ (0xFE00 ≤ a ∧ a ≤ 0xFEFF) ∧ ¬ (0x4000 ≤ a ∧ a ≤ 0x7FFF ∧ s.romLen ≤ a)

/-- No store to the address is fatal. -/
def StoreMapped (address : Word) : Prop :=
  let a := address.toNat
  ¬ (a ≤ 0x9FFF) ∧ ¬ (0xFE00 ≤ a ∧ a ≤ 0xFEFF)

/-- An address of the I/O window with no handler (spec/20_memory.md R70). -/
def UnimplementedIo (address : Word) : Prop :=
  (0xFF00 ≤ address.toNat ∧ address.toNat ≤ 0xFF7F) ∧
  address ∉ [0xFF01, 0xFF02, 0xFF04, 0xFF05, 0xFF06, 0xFF07, 0xFF0F]

/-- The bytes read at ascending addresses (mod 65536) are the listed ones. -/
def BytesAt (s : State) (address : Word) (bytes : List Byte) : Prop :=
  match bytes with
  | [] => True
  | v :: rest => load8 s address = .ok v ∧ BytesAt s (address + 1) rest

/-! ## Which way a machine step goes (spec/40_engine_step.md R131) -/

/-- After the countdowns the step neither dispatches nor idles: no line is ready and the engine runs, or a line is ready
and IME is 0 (which wakes a halted engine). -/
def WillFetch (s : State) : Prop :=
  let u := updateCountdowns s
  (u.ready = 0 ∧ u.halted = false) ∨ (u.ready ≠ 0 ∧ u.ime = false)

/-- The state the step that fetches starts its fetch from: the countdowns updated, awake. -/
def fetchState (s : State) : State := { updateCountdowns s with halted := false }

end Sys2Proof.Machine
end

