-- ==== Sys2Proof/Certificates/Slice0/Obligations.lean ====
section
/-! DEFINITION. The statements for the provers. Each docstring names the rule of spec/ it formalises. The opcode bytes, the
register codes and the default costs the instruction rules give are taken as the spec states them; it marks their source as
general knowledge (logs 6, 9). -/

namespace Sys2Proof.Machine

/-! ## Terms the statements share -/

/-- The 3-bit register codes of spec/30_encoding.md R101. -/
def regCode (r : Reg8) : BitVec 3 :=
  match r with
  | .b => 0 | .c => 1 | .d => 2 | .e => 3 | .h => 4 | .l => 5 | .a => 7

/-- The pair codes of `ld rr,nn` (R102). -/
def ldPairCode (p : Pair) : BitVec 2 :=
  match p with
  | .bc => 0 | .de => 1 | .hl => 2 | .sp => 3

/-- The pair codes of `push` (R102). -/
def pushCode (p : PushPair) : BitVec 2 :=
  match p with
  | .bc => 0 | .de => 1 | .hl => 2 | .af => 3

/-- The condition codes of R103. -/
def ccCode (cc : Cond) : BitVec 2 :=
  match cc with
  | .nz => 0 | .z => 1 | .nc => 2 | .c => 3

/-- `opcode` is an instruction of format OP: fetched, it is `i`, and PC is past the one byte. -/
def FetchesOp (opcode : Byte) (i : Instr) : Prop :=
  ∀ s, load8 s s.pc = .ok opcode → fetchInstr s = .ok (i, { s with pc := s.pc + 1 })

/-- `opcode` is one of format OP_N or OP_E: the byte after it is the operand, and a fault of its load is the fetch's. -/
def FetchesByte (opcode : Byte) (mk : Byte → Instr) : Prop :=
  ∀ s, load8 s s.pc = .ok opcode →
    (∀ n, load8 s (s.pc + 1) = .ok n → fetchInstr s = .ok (mk n, { s with pc := s.pc + 2 })) ∧
    (∀ f, load8 s (s.pc + 1) = .error f → fetchInstr s = .error f)

/-- `opcode` is one of format OP_NN: two operand bytes, the low one first, each load's fault the fetch's. -/
def FetchesWord (opcode : Byte) (mk : Word → Instr) : Prop :=
  ∀ s, load8 s s.pc = .ok opcode →
    (∀ lo hi, load8 s (s.pc + 1) = .ok lo → load8 s (s.pc + 2) = .ok hi →
      fetchInstr s = .ok (mk (join hi lo), { s with pc := s.pc + 3 })) ∧
    (∀ f, load8 s (s.pc + 1) = .error f → fetchInstr s = .error f) ∧
    (∀ lo f, load8 s (s.pc + 1) = .ok lo → load8 s (s.pc + 2) = .error f → fetchInstr s = .error f)

/-- The default cycles of the instruction: `taken` and `notTaken` (spec/70_reset_and_hazards.md R307). -/
def DefaultCost (i : Instr) (taken notTaken : Nat) : Prop :=
  defaultCycles i.opcode true = taken ∧ defaultCycles i.opcode false = notTaken

/-- The frame of an instruction that touches only registers: the general registers not listed, SP, every special and device
register and every byte of memory are unchanged. Flags and PC are said by each statement. -/
def RegisterFrame (but : List Reg8) (s t : State) : Prop :=
  SameRegs but s t ∧ t.sp = s.sp ∧ SameHidden s t ∧ SameDevices s t ∧ SameMemory s t

/-- What a load reads after a store of `v` to `address` (spec/20_memory.md R69, R70). -/
def readsBack (address : Word) (v : Byte) : Byte → Prop := fun r =>
  (address = 0xFF04 → r = 0) ∧ (UnimplementedIo address → r = Config.ioDefault) ∧
  (address ≠ 0xFF04 → ¬ UnimplementedIo address → r = v)

/-- All that a store of `v` to `address` does: the byte and its alias read back, every other byte reads as before, and no
register without a bus address changes, but for the hidden half of the divider a store to DIV clears. PC is said by each
statement. -/
def StoreEffect (address : Word) (v : Byte) (s t : State) : Prop :=
  SameRegs [] s t ∧ t.flags = s.flags ∧ t.sp = s.sp ∧
  t.ime = s.ime ∧ t.halted = s.halted ∧ t.eiCnt = s.eiCnt ∧ t.diCnt = s.diCnt ∧ t.timaAcc = s.timaAcc ∧
  t.irqIn = s.irqIn ∧ t.params = s.params ∧
  (address = 0xFF04 → t.divc = 0) ∧ (address ≠ 0xFF04 → t.divc = s.divc) ∧
  (∀ b, ¬ SameByte b address → load8 t b = load8 s b) ∧
  (∀ b, SameByte b address → ∃ r, load8 t b = .ok r ∧ readsBack address v r)

/-- All that `Push16(v)` does (spec/44_stack_call_return.md R200): SP less 2, the low byte stored at the new SP and then the
high byte at the new SP + 1, and every byte but those reads as before. -/
def PushEffect (v : Word) (s t : State) : Prop :=
  t.sp = s.sp - 2 ∧
  (∃ m, StoreEffect (s.sp - 2) (loByte v) { s with sp := s.sp - 2 } m ∧
    StoreEffect (s.sp - 2 + 1) (hiByte v) m t) ∧
  (∀ b, ¬ SameByte b (s.sp - 2) → ¬ SameByte b (s.sp - 2 + 1) → load8 t b = load8 s b)

/-- Where a push from `s` succeeds and where it is fatal: `good` when both bytes can be stored; else the fault of the first
that cannot. -/
def PushOutcome (s : State) (r : Host.Outcome State Fault Refusal) (good : Prop) : Prop :=
  (StoreMapped (s.sp - 2) → StoreMapped (s.sp - 2 + 1) → good) ∧
  (¬ StoreMapped (s.sp - 2) → r = .fault (.unmapped (s.sp - 2) .store)) ∧
  (StoreMapped (s.sp - 2) → ¬ StoreMapped (s.sp - 2 + 1) → r = .fault (.unmapped (s.sp - 2 + 1) .store))

/-- Where a pop from `s` succeeds and where it is fatal. -/
def PopOutcome (s : State) (r : Host.Outcome State Fault Refusal) (good : Byte → Byte → Prop) : Prop :=
  (LoadMapped s s.sp → LoadMapped s (s.sp + 1) →
    ∃ lo hi, load8 s s.sp = .ok lo ∧ load8 s (s.sp + 1) = .ok hi ∧ good lo hi) ∧
  (¬ LoadMapped s s.sp → r = .fault (.unmapped s.sp .load)) ∧
  (LoadMapped s s.sp → ¬ LoadMapped s (s.sp + 1) → r = .fault (.unmapped (s.sp + 1) .load))

/-- `Cond(cc)` by the table of spec/44_stack_call_return.md R207. -/
def CondHolds (cc : Cond) (s : State) : Prop :=
  match cc with
  | .nz => s.flags.z = false
  | .z => s.flags.z = true
  | .nc => s.flags.c = false
  | .c => s.flags.c = true

/-- The effect of an add of `v` (spec/42_arithmetic.md R170): `A` and all four flags, and nothing else. -/
def AddEffect (v : Byte) (s t : State) : Prop :=
  t.a.toNat = (s.a.toNat + v.toNat) % 256 ∧
  (t.flags.z = true ↔ t.a = 0) ∧ t.flags.n = false ∧
  (t.flags.h = true ↔ s.a.toNat % 16 + v.toNat % 16 > 15) ∧ (t.flags.c = true ↔ s.a.toNat + v.toNat > 255) ∧
  t.pc = s.pc ∧ RegisterFrame [.a] s t

/-- The flags of a subtract of `v` (R171). -/
def SubFlags (v : Byte) (s t : State) : Prop :=
  (t.flags.z = true ↔ s.a = v) ∧ t.flags.n = true ∧
  (t.flags.h = true ↔ s.a.toNat % 16 < v.toNat % 16) ∧ (t.flags.c = true ↔ s.a.toNat < v.toNat)

/-- The effect of a subtract of `v` (R171). -/
def SubEffect (v : Byte) (s t : State) : Prop :=
  t.a.toNat = (256 + s.a.toNat - v.toNat) % 256 ∧ SubFlags v s t ∧ t.pc = s.pc ∧ RegisterFrame [.a] s t

/-- The effect of a compare with `v` (R178): the flags of the subtract, `A` unchanged. -/
def CompareEffect (v : Byte) (s t : State) : Prop :=
  SubFlags v s t ∧ t.pc = s.pc ∧ RegisterFrame [] s t

/-- The effect of an exclusive or with `v` (spec/43_logic.md R190). -/
def XorEffect (v : Byte) (s t : State) : Prop :=
  t.a = s.a ^^^ v ∧ (t.flags.z = true ↔ t.a = 0) ∧ t.flags.n = false ∧ t.flags.h = false ∧ t.flags.c = false ∧
  t.pc = s.pc ∧ RegisterFrame [.a] s t

/-- An ALU instruction whose operand is the byte at HL: it completes with `effect` of that byte where the load is mapped,
and is fatal where not. -/
def OnByteAtHl (i : Instr) (effect : Byte → State → State → Prop) : Prop :=
  ∀ s, (LoadMapped s s.hl → ∃ v t, load8 s s.hl = .ok v ∧ exec i s = .next t ∧ effect v s t) ∧
    (¬ LoadMapped s s.hl → exec i s = .fault (.unmapped s.hl .load))

/-- The nine rows of one ALU operation: the opcode patterns, the costs, and the effect of each operand form. -/
def AluRows (row : BitVec 5) (immediate : Byte) (reg : Reg8 → Instr) (atHl : Instr) (imm : Byte → Instr)
    (effect : Byte → State → State → Prop) : Prop :=
  (∀ r, FetchesOp (row ++ regCode r) (reg r) ∧ DefaultCost (reg r) 4 4) ∧
  FetchesOp (row ++ 6#3) atHl ∧ DefaultCost atHl 8 8 ∧
  FetchesByte immediate imm ∧ (∀ n, DefaultCost (imm n) 8 8) ∧
  (∀ r s, ∃ t, exec (reg r) s = .next t ∧ effect (s.reg8 r) s t) ∧
  OnByteAtHl atHl effect ∧
  (∀ n s, ∃ t, exec (imm n) s = .next t ∧ effect n s t)

/-- A load of `dst` from `address`: it completes where the load is mapped, and is fatal where not, no register written. -/
def LoadsFrom (i : Instr) (dst : Reg8) (address : State → Word) : Prop :=
  ∀ s, (LoadMapped s (address s) → ∃ v t, load8 s (address s) = .ok v ∧ exec i s = .next t ∧ t.reg8 dst = v ∧
      t.flags = s.flags ∧ t.pc = s.pc ∧ RegisterFrame [dst] s t) ∧
    (¬ LoadMapped s (address s) → exec i s = .fault (.unmapped (address s) .load))

/-- A store of `value` to `address`: it completes where the store is mapped, and is fatal where not. -/
def StoresTo (i : Instr) (address : State → Word) (value : State → Byte) : Prop :=
  ∀ s, (StoreMapped (address s) → ∃ t, exec i s = .next t ∧ t.pc = s.pc ∧
      StoreEffect (address s) (value s) s t) ∧
    (¬ StoreMapped (address s) → exec i s = .fault (.unmapped (address s) .store))

end Sys2Proof.Machine

open Sys2Proof Sys2Proof.Machine

/-! ## Encoding -/

/-- Sanity: words written out bit by bit from the patterns of spec/30_encoding.md R108 decode to the instructions they
stand for. -/
def Obligations.WrittenWordsDecode : Prop :=
  decode [0b01000001] = .ok (.ld_b_c, []) ∧ decode [0b01111110] = .ok (.ld_a__hl, []) ∧
  decode [0b01110101] = .ok (.ld__hl__l, []) ∧ decode [0b00100001, 0x00, 0xC0] = .ok (.ld_hl_nn 0xC000, []) ∧
  decode [0b10000111] = .ok (.add_a_a, []) ∧ decode [0b10010110] = .ok (.sub_a__hl, []) ∧
  decode [0b11111110, 0x3C] = .ok (.cp_a_n 0x3C, []) ∧ decode [0b10101101] = .ok (.xor_a_l, []) ∧
  decode [0b11110101] = .ok (.push_af, []) ∧ decode [0b11101111] = .ok (.rst_0x28, []) ∧
  decode [0b11011000] = .ok (.ret_c, []) ∧ decode [0b00101000, 0xFE] = .ok (.jr_z_e 0xFE, []) ∧
  decode [0b01110110] = .ok (.halt, []) ∧ decode [0b11110011] = .ok (.di, []) ∧
  decode [0b11001011] = .ok (.prefix_0xCB, [])

/-- Decode and encode agree: every instruction's bytes, whatever follows them, decode to it with every operand. -/
def Obligations.DecodeOfEncode : Prop :=
  ∀ (i : Instr) (rest : List Byte), decode (encode i ++ rest) = .ok (i, rest)

/-- Encode and decode agree: bytes that decode are the encoding of what they decode to, so no two byte strings of the same
length mean the same instruction and no bit of an encoding is dropped. -/
def Obligations.EncodeOfDecode : Prop :=
  ∀ (bytes rest : List Byte) (i : Instr), decode bytes = .ok (i, rest) → bytes = encode i ++ rest

/-- The 111 undefined opcode bytes, written out as spec/30_encoding.md R109 lists them. -/
def Sys2Proof.Machine.undefinedOpcodes : List Byte :=
  [0x00, 0x03, 0x13, 0x23, 0x33, 0x0B, 0x1B, 0x2B, 0x3B] ++
  [0x04, 0x0C, 0x14, 0x1C, 0x24, 0x2C, 0x34, 0x3C, 0x05, 0x0D, 0x15, 0x1D, 0x25, 0x2D, 0x35, 0x3D] ++
  [0x07, 0x0F, 0x17, 0x1F, 0x08, 0x09, 0x19, 0x29, 0x39, 0x10, 0x22, 0x2A, 0x32, 0x3A, 0x27, 0x2F, 0x37, 0x3F] ++
  [0x88, 0x89, 0x8A, 0x8B, 0x8C, 0x8D, 0x8E, 0x8F, 0x98, 0x99, 0x9A, 0x9B, 0x9C, 0x9D, 0x9E, 0x9F] ++
  [0xA0, 0xA1, 0xA2, 0xA3, 0xA4, 0xA5, 0xA6, 0xA7, 0xB0, 0xB1, 0xB2, 0xB3, 0xB4, 0xB5, 0xB6, 0xB7] ++
  [0xC1, 0xD1, 0xE1, 0xF1, 0xC2, 0xCA, 0xD2, 0xDA, 0xC4, 0xCC, 0xD4, 0xDC, 0xCE, 0xDE, 0xE6, 0xF6, 0xD9] ++
  [0xE0, 0xF0, 0xE2, 0xF2, 0xE8, 0xF8, 0xEA, 0xFA, 0xD3, 0xDB, 0xDD, 0xE3, 0xE4, 0xEB, 0xEC, 0xED, 0xF4, 0xFC, 0xFD]

/-- The opcode bytes the decoder knows none for are exactly the 111 of R109; a machine step that fetches one is fatal with
the byte and the address it was fetched from (R234, R241). -/
def Obligations.UndefinedOpcodesAreFatal : Prop :=
  (∀ opcode, decodeOpcode opcode = none ↔ opcode ∈ undefinedOpcodes) ∧ undefinedOpcodes.length = 111 ∧
  ∀ s opcode, WillFetch s → opcode ∈ undefinedOpcodes → load8 (fetchState s) s.pc = .ok opcode →
    step s = .fault (.unknownOpcode opcode s.pc)

/-! ## The register file -/

/-- R21: Z, N, H, C are bits 7, 6, 5, 4 of `F`; its low four bits read 0. -/
def Obligations.FlagByteLayout : Prop :=
  ∀ s : State, s.f.getLsbD 7 = s.flags.z ∧ s.f.getLsbD 6 = s.flags.n ∧ s.f.getLsbD 5 = s.flags.h ∧
    s.f.getLsbD 4 = s.flags.c ∧ s.f.extractLsb' 0 4 = 0

/-- R22: the pairs BC, DE and HL compose and decompose high byte first, and a pair written reads back. -/
def Obligations.PairRoundTrip : Prop :=
  ∀ (s : State) (v : Word),
    (s.bc.toNat = s.b.toNat * 256 + s.c.toNat ∧ s.de.toNat = s.d.toNat * 256 + s.e.toNat ∧
      s.hl.toNat = s.h.toNat * 256 + s.l.toNat) ∧
    (s.setBc v = { s with b := v.extractLsb' 8 8, c := v.extractLsb' 0 8 } ∧
      s.setDe v = { s with d := v.extractLsb' 8 8, e := v.extractLsb' 0 8 } ∧
      s.setHl v = { s with h := v.extractLsb' 8 8, l := v.extractLsb' 0 8 }) ∧
    ((s.setBc v).bc = v ∧ (s.setDe v).de = v ∧ (s.setHl v).hl = v)

/-- R23: AF is A : F; a word written to it loses its low nibble. -/
def Obligations.AfMasksLowNibble : Prop :=
  ∀ (s : State) (v : Word), s.af.toNat = s.a.toNat * 256 + s.f.toNat ∧
    (s.setAf v).a = v.extractLsb' 8 8 ∧ (s.setAf v).f = v.extractLsb' 4 4 ++ 0#4 ∧ (s.setAf v).af = v &&& 0xFFF0

/-! ## Loads (spec/41_loads.md); none writes a flag (R161) -/

/-- R150: `ld r,r'`. -/
def Obligations.LoadRegisterFromRegister : Prop :=
  ∀ dst src, FetchesOp (0b01#2 ++ regCode dst ++ regCode src) (Instr.ldReg dst src) ∧
    DefaultCost (Instr.ldReg dst src) 4 4 ∧
    ∀ s, ∃ t, exec (Instr.ldReg dst src) s = .next t ∧ t.reg8 dst = s.reg8 src ∧ t.flags = s.flags ∧ t.pc = s.pc ∧
      RegisterFrame [dst] s t

/-- R151: `ld r,(hl)`; the address is HL before the write. -/
def Obligations.LoadRegisterFromByteAtHl : Prop :=
  ∀ dst, FetchesOp (0b01#2 ++ regCode dst ++ 6#3) (Instr.ldRegAtHl dst) ∧ DefaultCost (Instr.ldRegAtHl dst) 8 8 ∧
    LoadsFrom (Instr.ldRegAtHl dst) dst State.hl

/-- R152: `ld (hl),r`. -/
def Obligations.StoreRegisterAtHl : Prop :=
  ∀ src, FetchesOp (0b01110#5 ++ regCode src) (Instr.ldAtHlReg src) ∧ DefaultCost (Instr.ldAtHlReg src) 8 8 ∧
    StoresTo (Instr.ldAtHlReg src) State.hl (fun s => s.reg8 src)

/-- R153, R154: `ld a,(bc)` and `ld a,(de)`. -/
def Obligations.LoadAThroughPair : Prop :=
  (FetchesOp 0x0A .ld_a__bc ∧ DefaultCost .ld_a__bc 8 8 ∧ LoadsFrom .ld_a__bc .a State.bc) ∧
  (FetchesOp 0x1A .ld_a__de ∧ DefaultCost .ld_a__de 8 8 ∧ LoadsFrom .ld_a__de .a State.de)

/-- R155, R156: `ld (bc),a` and `ld (de),a`. -/
def Obligations.StoreAThroughPair : Prop :=
  (FetchesOp 0x02 .ld__bc__a ∧ DefaultCost .ld__bc__a 8 8 ∧ StoresTo .ld__bc__a State.bc (fun s => s.a)) ∧
  (FetchesOp 0x12 .ld__de__a ∧ DefaultCost .ld__de__a 8 8 ∧ StoresTo .ld__de__a State.de (fun s => s.a))

/-- R157: `ld r,n`. -/
def Obligations.LoadRegisterImmediate : Prop :=
  ∀ dst, FetchesByte (0b00#2 ++ regCode dst ++ 6#3) (Instr.ldRegN dst) ∧
    ∀ n, DefaultCost (Instr.ldRegN dst n) 8 8 ∧
      ∀ s, ∃ t, exec (Instr.ldRegN dst n) s = .next t ∧ t.reg8 dst = n ∧ t.flags = s.flags ∧ t.pc = s.pc ∧
        RegisterFrame [dst] s t

/-- R158: `ld (hl),n`; the operand fetch comes before the store. -/
def Obligations.StoreImmediateAtHl : Prop :=
  FetchesByte 0x36 .ld__hl__n ∧
  ∀ n, DefaultCost (.ld__hl__n n) 12 12 ∧ StoresTo (.ld__hl__n n) State.hl (fun _ => n)

/-- R159: `ld rr,nn`; for a pair the high byte goes to the first-named register. -/
def Obligations.LoadPairImmediate : Prop :=
  (∀ p, FetchesWord (0b00#2 ++ ldPairCode p ++ 1#4) (Instr.ldPairNn p)) ∧
  ∀ nn, (∀ p, DefaultCost (Instr.ldPairNn p nn) 12 12) ∧
    ∀ s,
      (∃ t, exec (.ld_bc_nn nn) s = .next t ∧ t.b = nn.extractLsb' 8 8 ∧ t.c = nn.extractLsb' 0 8 ∧
        t.flags = s.flags ∧ t.pc = s.pc ∧ RegisterFrame [.b, .c] s t) ∧
      (∃ t, exec (.ld_de_nn nn) s = .next t ∧ t.d = nn.extractLsb' 8 8 ∧ t.e = nn.extractLsb' 0 8 ∧
        t.flags = s.flags ∧ t.pc = s.pc ∧ RegisterFrame [.d, .e] s t) ∧
      (∃ t, exec (.ld_hl_nn nn) s = .next t ∧ t.h = nn.extractLsb' 8 8 ∧ t.l = nn.extractLsb' 0 8 ∧
        t.flags = s.flags ∧ t.pc = s.pc ∧ RegisterFrame [.h, .l] s t) ∧
      (∃ t, exec (.ld_sp_nn nn) s = .next t ∧ t.sp = nn ∧ t.flags = s.flags ∧ t.pc = s.pc ∧
        SameRegs [] s t ∧ SameHidden s t ∧ SameDevices s t ∧ SameMemory s t)

/-- R160: `ld sp,hl`. -/
def Obligations.LoadSpFromHl : Prop :=
  FetchesOp 0xF9 .ld_sp_hl ∧ DefaultCost .ld_sp_hl 8 8 ∧
  ∀ s, ∃ t, exec .ld_sp_hl s = .next t ∧ t.sp = s.hl ∧ t.flags = s.flags ∧ t.pc = s.pc ∧
    SameRegs [] s t ∧ SameHidden s t ∧ SameDevices s t ∧ SameMemory s t

/-! ## Arithmetic and logic -/

/-- R170, R172 to R174: `add a,x`. -/
def Obligations.AddWritesSumAndFlags : Prop :=
  AluRows 0b10000 0xC6 Instr.addReg .add_a__hl .add_a_n AddEffect

/-- R171, R175 to R177: `sub a,x`. -/
def Obligations.SubtractWritesDifferenceAndFlags : Prop :=
  AluRows 0b10010 0xD6 Instr.subReg .sub_a__hl .sub_a_n SubEffect

/-- R178 to R180: `cp a,x`, the flags of the subtract with `A` unchanged. -/
def Obligations.CompareWritesOnlyFlags : Prop :=
  AluRows 0b10111 0xFE Instr.cpReg .cp_a__hl .cp_a_n CompareEffect

/-- R190 to R192: `xor a,x`. -/
def Obligations.XorWritesResultAndClearsFlags : Prop :=
  AluRows 0b10101 0xEE Instr.xorReg .xor_a__hl .xor_a_n XorEffect

/-! ## Stack, call, return, restart -/

/-- R200, R202: `push rr`. -/
def Obligations.PushStoresPairBelowSp : Prop :=
  ∀ p, FetchesOp (0b11#2 ++ pushCode p ++ 5#4) (Instr.pushPair p) ∧ DefaultCost (Instr.pushPair p) 16 16 ∧
    ∀ s, let v := match p with | .bc => join s.b s.c | .de => join s.d s.e | .hl => join s.h s.l | .af => join s.a s.f
      PushOutcome s (exec (Instr.pushPair p) s)
        (∃ t, exec (Instr.pushPair p) s = .next t ∧ t.pc = s.pc ∧ PushEffect v s t)

/-- R203: `call nn`: PC, past the operand bytes, is pushed, and control goes to `nn`. -/
def Obligations.CallPushesReturnAddress : Prop :=
  FetchesWord 0xCD .call_nn ∧
  ∀ nn, DefaultCost (.call_nn nn) 24 24 ∧
    ∀ s, PushOutcome s (exec (.call_nn nn) s)
      (∃ t, exec (.call_nn nn) s = .next t ∧ t.pc = nn ∧ PushEffect s.pc s t)

/-- R206: `rst`, the eight vectors `8 * t`. -/
def Obligations.RestartPushesAndJumpsToVector : Prop :=
  ∀ k : BitVec 3, FetchesOp (0b11#2 ++ k ++ 7#3) (Instr.rstTarget k) ∧ DefaultCost (Instr.rstTarget k) 16 16 ∧
    ∀ s, PushOutcome s (exec (Instr.rstTarget k) s)
      (∃ t, exec (Instr.rstTarget k) s = .next t ∧ t.pc.toNat = 8 * k.toNat ∧ PushEffect s.pc s t)

/-- R201, R204: `ret`. -/
def Obligations.ReturnPopsPc : Prop :=
  FetchesOp 0xC9 .ret ∧ DefaultCost .ret 16 16 ∧
  ∀ s, PopOutcome s (exec .ret s) fun lo hi =>
    ∃ t, exec .ret s = .next t ∧ t.pc = join hi lo ∧ t.sp = s.sp + 2 ∧ t.flags = s.flags ∧
      SameRegs [] s t ∧ SameHidden s t ∧ SameDevices s t ∧ SameMemory s t

/-- R205, R207: `ret cc`; not taken, nothing is read and only PC has moved. -/
def Obligations.ConditionalReturn : Prop :=
  ∀ cc, FetchesOp (0b110#3 ++ ccCode cc ++ 0#3) (Instr.retCond cc) ∧ DefaultCost (Instr.retCond cc) 20 8 ∧
    ∀ s, (s.taken (Instr.retCond cc) = true ↔ CondHolds cc s) ∧
      (CondHolds cc s → PopOutcome s (exec (Instr.retCond cc) s) fun lo hi =>
        ∃ t, exec (Instr.retCond cc) s = .next t ∧ t.pc = join hi lo ∧ t.sp = s.sp + 2 ∧ t.flags = s.flags ∧
          SameRegs [] s t ∧ SameHidden s t ∧ SameDevices s t ∧ SameMemory s t) ∧
      (¬ CondHolds cc s → exec (Instr.retCond cc) s = .next s)

/-- A call and the return it is matched with: where the two stack bytes are ordinary RAM, `ret` after `call nn` resumes at
the return address with SP and every register as before (spec/95_test_vectors.md S8). -/
def Obligations.CallReturnRoundTrip : Prop :=
  ∀ (s : State) (nn : Word),
    (∀ a : Word, (a = s.sp - 2 ∨ a = s.sp - 2 + 1) →
      (0xA000 ≤ a.toNat ∧ a.toNat < 0xFE00) ∨ (0xFF80 ≤ a.toNat ∧ a.toNat < 0xFFFF)) →
    ∃ t u, exec (.call_nn nn) s = .next t ∧ t.pc = nn ∧ exec .ret t = .next u ∧ u.pc = s.pc ∧ u.sp = s.sp ∧
      u.flags = s.flags ∧ SameRegs [] s u ∧ SameHidden s u ∧ SameDevices s u

/-! ## Jumps -/

/-- R220: `jr e`: the displacement is read as two's complement and added mod 65536 to PC past it. -/
def Obligations.RelativeJump : Prop :=
  FetchesByte 0x18 .jr_e ∧
  ∀ e, DefaultCost (.jr_e e) 12 12 ∧
    ∀ s, ∃ t, exec (.jr_e e) s = .next t ∧ (t.pc.toNat : Int) = ((s.pc.toNat : Int) + e.toInt) % 65536 ∧
      t.flags = s.flags ∧ RegisterFrame [] s t

/-- R221: `jr cc,e`. -/
def Obligations.ConditionalRelativeJump : Prop :=
  ∀ cc, FetchesByte (0b001#3 ++ ccCode cc ++ 0#3) (Instr.jrCond cc) ∧
    ∀ e, DefaultCost (Instr.jrCond cc e) 12 8 ∧
      ∀ s, (s.taken (Instr.jrCond cc e) = true ↔ CondHolds cc s) ∧
        (CondHolds cc s → ∃ t, exec (Instr.jrCond cc e) s = .next t ∧
          (t.pc.toNat : Int) = ((s.pc.toNat : Int) + e.toInt) % 65536 ∧ t.flags = s.flags ∧ RegisterFrame [] s t) ∧
        (¬ CondHolds cc s → exec (Instr.jrCond cc e) s = .next s)

/-- R222, R223: `jp nn` and `jp hl`; no memory is read for the target of `jp hl`. -/
def Obligations.AbsoluteJumps : Prop :=
  (FetchesWord 0xC3 .jp_nn ∧ ∀ nn, DefaultCost (.jp_nn nn) 16 16 ∧
    ∀ s, ∃ t, exec (.jp_nn nn) s = .next t ∧ t.pc = nn ∧ t.flags = s.flags ∧ RegisterFrame [] s t) ∧
  (FetchesOp 0xE9 .jp_hl ∧ DefaultCost .jp_hl 4 4 ∧
    ∀ s, ∃ t, exec .jp_hl s = .next t ∧ t.pc.toNat = s.h.toNat * 256 + s.l.toNat ∧ t.flags = s.flags ∧
      RegisterFrame [] s t)

/-! ## Interrupt toggles, halt, prefix -/

/-- R230, R231: `di` and `ei` set their own countdown to 2 and nothing else; IME is not changed by them. The countdowns at
the start of the next step leave IME as it was, those of the step after it flip IME, unless the other countdown was pending
too. -/
def Obligations.TogglesArmCountdowns : Prop :=
  (FetchesOp 0xF3 .di ∧ DefaultCost .di 4 4 ∧ ∀ s, ∃ t, exec .di s = .next t ∧ t.diCnt = .two ∧ t.eiCnt = s.eiCnt ∧
    t.ime = s.ime ∧ t = { s with diCnt := t.diCnt } ∧
    (s.eiCnt ≠ .one → (updateCountdowns t).ime = s.ime) ∧
    (s.eiCnt = .idle → (updateCountdowns (updateCountdowns t)).ime = false)) ∧
  (FetchesOp 0xFB .ei ∧ DefaultCost .ei 4 4 ∧ ∀ s, ∃ t, exec .ei s = .next t ∧ t.eiCnt = .two ∧ t.diCnt = s.diCnt ∧
    t.ime = s.ime ∧ t = { s with eiCnt := t.eiCnt } ∧
    (s.diCnt ≠ .one → (updateCountdowns t).ime = s.ime) ∧
    (updateCountdowns (updateCountdowns t)).ime = true)

/-- R232: `halt` sets the halted state; registers, flags, memory and PC (past the opcode) are unchanged. -/
def Obligations.HaltOnlySetsHalted : Prop :=
  FetchesOp 0x76 .halt ∧ DefaultCost .halt 4 4 ∧
  ∀ s, ∃ t, exec .halt s = .next t ∧ t.halted = true ∧ t = { s with halted := t.halted }

/-- R233, R242: the prefix byte stops the machine with `UnsupportedPrefix`, always; it is fetched as an instruction of one
byte, so the byte after it is not read. -/
def Obligations.PrefixByteIsFatal : Prop :=
  FetchesOp 0xCB .prefix_0xCB ∧ (∀ s, exec .prefix_0xCB s = .fault .unsupportedPrefix) ∧
  ∀ s, WillFetch s → load8 (fetchState s) s.pc = .ok 0xCB → step s = .fault .unsupportedPrefix

/-! ## The bus (spec/20_memory.md) -/

/-- R61, R62, R64 to R68, R71, R72: the Load column of the map, every window but the I/O window 0xFF00 to 0xFF7F, whose loads
IoRegistersByAddress and UnimplementedIoIsNotFatal state. -/
def Obligations.LoadsByWindow : Prop :=
  ∀ (s : State) (address : Word), let a := address.toNat
    (a ≤ 0x3FFF → load8 s address = .ok (Memory.get s.params.rom a)) ∧
    (0x4000 ≤ a ∧ a ≤ 0x7FFF → a < s.romLen → load8 s address = .ok (Memory.get s.params.rom a)) ∧
    (0x4000 ≤ a ∧ a ≤ 0x7FFF → s.romLen ≤ a → load8 s address = .error (.unmapped address .load)) ∧
    (0x8000 ≤ a ∧ a ≤ 0x9FFF → load8 s address = .error (.unmapped address .load)) ∧
    (0xA000 ≤ a ∧ a ≤ 0xDFFF → load8 s address = .ok (Memory.get s.mem a)) ∧
    (0xE000 ≤ a ∧ a ≤ 0xFDFF → load8 s address = .ok (Memory.get s.mem (a - 0x2000))) ∧
    (0xFE00 ≤ a ∧ a ≤ 0xFEFF → load8 s address = .error (.unmapped address .load)) ∧
    (0xFF80 ≤ a ∧ a ≤ 0xFFFE → load8 s address = .ok (Memory.get s.mem a)) ∧
    (a = 0xFFFF → load8 s address = .ok s.ie)

/-- R61, R63, R65 to R68, R71, R72: the Store column of the map, every window but the I/O window 0xFF00 to 0xFF7F, whose
stores IoRegistersByAddress and UnimplementedIoIsNotFatal state. -/
def Obligations.StoresByWindow : Prop :=
  ∀ (s : State) (address : Word) (v : Byte), let a := address.toNat
    (a ≤ 0x9FFF → store8 s address v = .error (.unmapped address .store)) ∧
    (0xA000 ≤ a ∧ a ≤ 0xDFFF → store8 s address v = .ok { s with mem := Memory.set s.mem a v }) ∧
    (0xE000 ≤ a ∧ a ≤ 0xFDFF → store8 s address v = .ok { s with mem := Memory.set s.mem (a - 0x2000) v }) ∧
    (0xFE00 ≤ a ∧ a ≤ 0xFEFF → store8 s address v = .error (.unmapped address .store)) ∧
    (0xFF80 ≤ a ∧ a ≤ 0xFFFE → store8 s address v = .ok { s with mem := Memory.set s.mem a v }) ∧
    (a = 0xFFFF → store8 s address v = .ok { s with ie := v })

/-- R68: an echo address and the working RAM address 0x2000 below name the same byte, for loads and for stores. -/
def Obligations.EchoAliasesWorkingRam : Prop :=
  ∀ (s : State) (address : Word) (v : Byte), 0xE000 ≤ address.toNat → address.toNat ≤ 0xFDFF →
    load8 s address = load8 s (address - 0x2000) ∧ store8 s address v = store8 s (address - 0x2000) v ∧
    ∃ t, store8 s (address - 0x2000) v = .ok t ∧ load8 t address = .ok v ∧ load8 t (address - 0x2000) = .ok v

/-- R69: the I/O registers by exact address; a load changes nothing, a store to DIV clears the whole divider. -/
def Obligations.IoRegistersByAddress : Prop :=
  ∀ (s : State) (v : Byte),
    (load8 s 0xFF01 = .ok s.sb ∧ load8 s 0xFF02 = .ok s.sc ∧ load8 s 0xFF04 = .ok (s.divc.extractLsb' 8 8) ∧
      load8 s 0xFF05 = .ok s.tima ∧ load8 s 0xFF06 = .ok s.tma ∧ load8 s 0xFF07 = .ok s.tac ∧
      load8 s 0xFF0F = .ok s.iflag) ∧
    (store8 s 0xFF01 v = .ok { s with sb := v } ∧ store8 s 0xFF02 v = .ok { s with sc := v } ∧
      store8 s 0xFF04 v = .ok { s with divc := 0 } ∧ store8 s 0xFF05 v = .ok { s with tima := v } ∧
      store8 s 0xFF06 v = .ok { s with tma := v } ∧ store8 s 0xFF07 v = .ok { s with tac := v } ∧
      store8 s 0xFF0F v = .ok { s with iflag := v })

/-- R70: an I/O address with no handler: a load gives the default byte, a store is discarded, and no state changes. -/
def Obligations.UnimplementedIoIsNotFatal : Prop :=
  ∀ (s : State) (address : Word) (v : Byte), UnimplementedIo address →
    load8 s address = .ok Config.ioDefault ∧ store8 s address v = .ok s

/-- R81: where a store succeeds, a load of that byte through either alias gives the most recent value, and every other byte
reads as before. -/
def Obligations.StoreThenLoad : Prop :=
  ∀ (s t : State) (address : Word) (v : Byte), store8 s address v = .ok t → StoreEffect address v s t ∧ t.pc = s.pc

/-- R75, R77: 16-bit accesses are two byte accesses, low byte first and at the lower address, the second address mod
65536, and a fault of the first stops the second. -/
def Obligations.WordAccessesAreTwoBytes : Prop :=
  ∀ (s : State) (address v : Word),
    (∀ lo hi, load8 s address = .ok lo → load8 s (address + 1) = .ok hi → load16 s address = .ok (join hi lo)) ∧
    (∀ f, load8 s address = .error f → load16 s address = .error f) ∧
    (∀ lo f, load8 s address = .ok lo → load8 s (address + 1) = .error f → load16 s address = .error f) ∧
    (∀ t, store8 s address (v.extractLsb' 0 8) = .ok t →
      store16 s address v = store8 t (address + 1) (v.extractLsb' 8 8)) ∧
    (∀ f, store8 s address (v.extractLsb' 0 8) = .error f → store16 s address v = .error f)

/-! ## The machine step (spec/40_engine_step.md) -/

/-- A step runs the decoded instruction: where the step fetches and the bytes at PC are the encoding of `i`, the step is
`exec i` with PC past the instruction, and then the timer with the cycles of `i` and the inputs (R130, R135, R137). -/
def Obligations.StepRunsFetchedInstruction : Prop :=
  ∀ (s : State) (i : Instr), WillFetch s → BytesAt (fetchState s) s.pc (encode i) →
    let u := { fetchState s with pc := s.pc + BitVec.ofNat 16 (encode i).length }
    (∀ t, exec i u = .next t → step s = .next (mergeIrqIn (timerAdvance (u.cycles i.opcode (u.taken i)) t))) ∧
    (∀ f, exec i u = .fault f → step s = .fault f)

/-- A step that fetches from an unmapped address is fatal with that address (R136, R247). -/
def Obligations.FetchFromUnmappedIsFatal : Prop :=
  ∀ s, WillFetch s → ¬ LoadMapped (fetchState s) s.pc → step s = .fault (.unmapped s.pc .load)

/-- R132: the countdowns, and what they leave alone. -/
def Obligations.CountdownsFlipIme : Prop :=
  ∀ s, (updateCountdowns s).diCnt = (match s.diCnt with | .two => .one | .one => .idle | .idle => .idle) ∧
    (updateCountdowns s).eiCnt = (match s.eiCnt with | .two => .one | .one => .idle | .idle => .idle) ∧
    (updateCountdowns s).ime = (if s.eiCnt = .one then true else if s.diCnt = .one then false else s.ime) ∧
    updateCountdowns s = { s with diCnt := (updateCountdowns s).diCnt, eiCnt := (updateCountdowns s).eiCnt,
                                  ime := (updateCountdowns s).ime }

/-- R134: a halted engine with no line ready fetches nothing and changes no register, no flag and no memory; the timer
advances by `CYC_HALT`. -/
def Obligations.HaltedStepIsIdle : Prop :=
  ∀ s, s.halted = true → s.ie &&& s.iflag = 0 →
    step s = .next (mergeIrqIn (timerAdvance s.params.cycHalt.cycles (updateCountdowns s))) ∧
    ∃ t, step s = .next t ∧ t.halted = true ∧ t.pc = s.pc ∧ t.sp = s.sp ∧ t.flags = s.flags ∧ SameRegs [] s t ∧
      t.mem = s.mem ∧ t.ie = s.ie ∧ t.params = s.params

/-- R252 to R255: with IME 1 after the countdowns, the lowest ready line `n < 5` is dispatched in a step that runs no
instruction: its pending bit alone and IME are cleared, the engine is awake, PC is pushed, control goes to
`0x0040 + 8 * n`; then the timer with `CYC_IRQ` and the inputs. That the countdowns come first, that the step runs no
instruction, and that the timer and the inputs follow (R130 to R132) are the spec's own decisions D9, D10, D31, D36 (log 9). -/
def Obligations.DispatchEntersVector : Prop :=
  ∀ (s : State) (n : Nat), let u := updateCountdowns s
    u.ime = true → n < 5 → (u.ie &&& u.iflag).getLsbD n = true → (∀ m, m < n → (u.ie &&& u.iflag).getLsbD m = false) →
    let w := { u with halted := false, ime := false, iflag := u.iflag &&& ~~~(1#8 <<< n) }
    PushOutcome s (step s)
      (∃ t, PushEffect s.pc w t ∧ t.pc = w.pc ∧ step s = .next (mergeIrqIn (timerAdvance s.params.cycIrq.cycles
        { t with pc := 0x0040 + BitVec.ofNat 16 (8 * n) })))

/-- R252: with a line ready and IME 0, a halted engine wakes without a dispatch; the pending bits stay. That the same step
goes on to run the instruction at PC (R131), and that the countdowns come first, are the spec's own decisions D10 and D9
(log 9). -/
def Obligations.WakeWithoutDispatch : Prop :=
  ∀ s, s.ie &&& s.iflag ≠ 0 → (updateCountdowns s).ime = false →
    step s = runInstr { updateCountdowns s with halted := false }

/-- R245: with IME 1 and only lines of 5 to 7 ready, the step is fatal with the lowest of them. That the countdowns come
first is the spec's own decision D9 (log 9). -/
def Obligations.UndefinedLineIsFatal : Prop :=
  ∀ (s : State) (n : Nat), let u := updateCountdowns s
    u.ime = true → 5 ≤ n → n < 8 → (u.ie &&& u.iflag).getLsbD n = true →
    (∀ m, m < n → (u.ie &&& u.iflag).getLsbD m = false) → step s = .fault (.invalidInterruptLine n)

/-- R253: the line the check chooses is the lowest set bit. -/
def Obligations.LowestReadyLineWins : Prop :=
  ∀ (ready : Byte) (n : Nat), lowestLine ready = some n ↔
    n < 8 ∧ ready.getLsbD n = true ∧ ∀ m, m < n → ready.getLsbD m = false

/-- R231, R303: IME flips at the second step after `ei`. A step that finds `ei_cnt` 2 with IME 0 dispatches nothing, and
leaves IME still 0; where it leaves `ei_cnt` 1, the countdowns of the step after it set IME. -/
def Obligations.EnableActsOneInstructionLate : Prop :=
  ∀ s t : State, s.ime = false → s.eiCnt = .two → step s = .next t →
    (interruptCheck (updateCountdowns s) = .ok ({ updateCountdowns s with halted := s.halted && s.ready == 0 }, false)) ∧
    t.ime = false ∧ (t.eiCnt = .one ∨ t.eiCnt = .two) ∧
    (t.eiCnt = .one → (updateCountdowns t).ime = true)

/-! ## Timer and inputs (spec/60_exceptions.md) -/

/-- R264: the period by `TAC[1:0]`, in cycles. -/
def Sys2Proof.Machine.PeriodOf (tac : Byte) (p : Nat) : Prop :=
  (tac.extractLsb' 0 2 = 0 → p = 1024) ∧ (tac.extractLsb' 0 2 = 1 → p = 16) ∧
  (tac.extractLsb' 0 2 = 2 → p = 64) ∧ (tac.extractLsb' 0 2 = 3 → p = 256)

/-- R263: the loop of the counter, turn by turn. Disabled, nothing changes. Enabled with less than a period accumulated, no
tick. With a period or more, one tick (from 0xFF a reload that raises the line) and then the rest of the loop. -/
def Obligations.CounterLoop : Prop :=
  ∀ (s : State) (c p : Nat), PeriodOf s.tac p →
    (s.tac.getLsbD 2 = false → advanceCounter c s = (s, false)) ∧
    (s.tac.getLsbD 2 = true → s.timaAcc + c < p → advanceCounter c s = ({ s with timaAcc := s.timaAcc + c }, false)) ∧
    (s.tac.getLsbD 2 = true → p ≤ s.timaAcc + c → s.tima = 0xFF →
      advanceCounter c s = ((advanceCounter 0 { s with tima := s.tma, timaAcc := s.timaAcc + c - p }).1, true)) ∧
    (s.tac.getLsbD 2 = true → p ≤ s.timaAcc + c → s.tima ≠ 0xFF →
      advanceCounter c s = advanceCounter 0 { s with tima := s.tima + 1, timaAcc := s.timaAcc + c - p })

/-- R261, R262: the timer advances the free-running divider (mod 65536) and the counter and, on an overflow, sets pending bit
2; it changes nothing else. -/
def Obligations.TimerAdvancesAndSetsPendingLine2 : Prop :=
  ∀ (s : State) (c : Nat), (timerAdvance c s).divc.toNat = (s.divc.toNat + c) % 65536 ∧
    let r := advanceCounter c { s with divc := (timerAdvance c s).divc }
    timerAdvance c s = { s with divc := (timerAdvance c s).divc, tima := r.1.tima, timaAcc := r.1.timaAcc,
                                iflag := if r.2 then s.iflag ||| 0x04 else s.iflag }

/-- R251: an input sets the pending bits of the lines it asserts, among 0, 1, 3 and 4, and no other bit; it is consumed.
With no input left to come nothing is asserted and nothing changes: that convention is the model's (log 7). -/
def Obligations.InputsSetPendingBits : Prop :=
  ∀ s : State, (s.irqIn = [] → mergeIrqIn s = s) ∧
    ∀ (i : IrqIn) (rest : List IrqIn), s.irqIn = i :: rest →
      (mergeIrqIn s).iflag.getLsbD 0 = (s.iflag.getLsbD 0 || i.vblank) ∧
      (mergeIrqIn s).iflag.getLsbD 1 = (s.iflag.getLsbD 1 || i.lcdStat) ∧
      (mergeIrqIn s).iflag.getLsbD 3 = (s.iflag.getLsbD 3 || i.serial) ∧
      (mergeIrqIn s).iflag.getLsbD 4 = (s.iflag.getLsbD 4 || i.joypad) ∧
      (∀ k, k ∉ [0, 1, 3, 4] → (mergeIrqIn s).iflag.getLsbD k = s.iflag.getLsbD k) ∧
      mergeIrqIn s = { s with iflag := (mergeIrqIn s).iflag, irqIn := rest }

/-! ## The whole machine -/

/-- The invariant holds after power-on. The RAM contents, the ROM image and the inputs of the reset state are the model's
choice (logs 3, 4, 7). -/
def Obligations.ResetMeetsInvariant : Prop := State.Inv State.reset

/-- R35: the power-on values of every register, whatever the parameters, RAM contents and inputs. -/
def Obligations.PowerOnValues : Prop :=
  ∀ (params : Params) (ram0 : Memory) (irqIn : List IrqIn), let s := State.powerOn params ram0 irqIn
    (s.a = 0x01 ∧ s.f = 0xB0 ∧ s.b = 0x00 ∧ s.c = 0x13 ∧ s.d = 0x00 ∧ s.e = 0xD8 ∧ s.h = 0x01 ∧ s.l = 0x4D) ∧
    (s.pc = 0x0100 ∧ s.sp = 0xFFFE) ∧
    (s.ime = false ∧ s.halted = false ∧ s.eiCnt = .idle ∧ s.diCnt = .idle ∧ s.ie = 0x00 ∧ s.iflag = 0x00) ∧
    (s.divc = 0x0000 ∧ s.tima = 0x00 ∧ s.tma = 0x00 ∧ s.tac = 0x00 ∧ s.timaAcc = 0 ∧ s.sb = 0x00 ∧ s.sc = 0x00) ∧
    (s.mem = ram0 ∧ s.params = params)

/-- The invariant is kept by every step from every state that meets it: memory and the ROM image stay canonical and list
only bytes that exist, and the accumulator stays below 1024 (R31). -/
def Obligations.StepKeepsInvariant : Prop :=
  ∀ s t, State.Inv s → step s = .next t → State.Inv t

/-- The parameters and the inputs are no state of the machine (R36). No step changes the ROM image, its length or a cycle
cost, and of the inputs it takes the first; no instruction changes any of them. What a step makes of the machine depends on
the machine, the parameters and that step's own input alone. That the arguments stand beside the machine in what the host's
step takes is the model's form (logs 1, 7). -/
def Obligations.StepKeepsParameters : Prop :=
  (∀ s t, step s = .next t → t.params = s.params ∧ t.irqIn = s.irqIn.tail) ∧
  (∀ i s t, exec i s = .next t → t.params = s.params ∧ t.irqIn = s.irqIn) ∧
  (∀ s u t : State, u.toCoreState = s.toCoreState → u.params = s.params → u.input = s.input → step s = .next t →
    ∃ w, step u = .next w ∧ w.toCoreState = t.toCoreState)

/-- R21: the flags are written by add, subtract, compare and xor and by no other instruction. -/
def Obligations.OnlyAluWritesFlags : Prop :=
  ∀ (i : Instr) (s t : State), exec i s = .next t → t.flags ≠ s.flags →
    (∃ r, i = Instr.addReg r ∨ i = Instr.subReg r ∨ i = Instr.cpReg r ∨ i = Instr.xorReg r) ∨
    i = .add_a__hl ∨ i = .sub_a__hl ∨ i = .cp_a__hl ∨ i = .xor_a__hl ∨
    (∃ n, i = .add_a_n n ∨ i = .sub_a_n n ∨ i = .cp_a_n n ∨ i = .xor_a_n n)

/-- R26: a step sets IME only by the expiry of `ei_cnt`, and clears it only by the expiry of `di_cnt` or by a dispatch. -/
def Obligations.ImeChangesOnlyByCountdownOrDispatch : Prop :=
  ∀ s t, step s = .next t →
    (s.ime = false → t.ime = true → s.eiCnt = .one) ∧
    (s.ime = true → t.ime = false →
      s.diCnt = .one ∨ ∃ w, interruptCheck (updateCountdowns s) = .ok (w, true))

/-- R27: a step sets `halted` only by running the halt operation, and clears it only where a line was ready; while it stays
1 nothing is fetched and PC stays. -/
def Obligations.HaltedChangesOnlyByHaltOrWake : Prop :=
  ∀ s t, step s = .next t →
    (s.halted = false → t.halted = true → ∃ w, fetchInstr (fetchState s) = .ok (.halt, w)) ∧
    (s.halted = true → t.halted = false → s.ie &&& s.iflag ≠ 0) ∧
    (s.halted = true → s.ie &&& s.iflag = 0 → t.halted = true ∧ t.pc = s.pc)

/-- The frame of all the forms that store nothing, at once: an instruction that is no store, push, call or restart leaves
memory and every register with a bus address (the interrupt masks, the timer, the serial registers) alone. -/
def Obligations.FormsThatStoreNothingLeaveMemory : Prop :=
  ∀ (i : Instr) (s t : State), exec i s = .next t →
    (∀ r, i ≠ Instr.ldAtHlReg r) → (∀ n, i ≠ .ld__hl__n n) → i ≠ .ld__bc__a → i ≠ .ld__de__a →
    (∀ p, i ≠ Instr.pushPair p) → (∀ nn, i ≠ .call_nn nn) → (∀ k, i ≠ Instr.rstTarget k) →
    t.mem = s.mem ∧ SameDevices s t ∧ t.divc = s.divc

/-- R308: a program that has ended (halted with IE 0) stays so for ever, whatever the timer and the inputs do: every later
step is an idle step, no fault is met, and the registers, the flags, PC, SP and all memory are constant. -/
def Obligations.EndedProgramStaysEnded : Prop :=
  ∀ (k : Nat) (s : State), s.ended →
    ∃ t, RunsTo k s t ∧ t.ended ∧ t.pc = s.pc ∧ t.sp = s.sp ∧ t.flags = s.flags ∧ SameRegs [] s t ∧ t.mem = s.mem ∧
      t.params = s.params
end

