-- ==== Sys2Proof/Laws/Memory.lean ====
section
/-! SUPPORT. The laws of memory: a read after a write, and every write keeps the canonical form. -/

namespace Sys2Proof.Machine

namespace Memory

/-! ## Reading after writing -/

@[simp] theorem get_nil (k : Nat) : Memory.get [] k = unlisted := rfl

theorem get_insert_same (m : Memory) (k : Nat) (v : Byte) (h : ∀ cell ∈ m, cell.1 ≠ k) :
    Memory.get (Memory.insert m k v) k = v := by
  induction m with
  | nil => simp [Memory.insert, Memory.get]
  | cons cell rest ih =>
    simp only [Memory.insert]
    split
    · simp [Memory.get]
    · simp only [Memory.get]
      rw [if_neg (h cell (by simp))]
      exact ih fun c hc => h c (by simp [hc])

theorem get_insert_other (m : Memory) (k j : Nat) (v : Byte) (h : j ≠ k) :
    Memory.get (Memory.insert m k v) j = Memory.get m j := by
  induction m with
  | nil => simp [Memory.insert, Memory.get, Ne.symm h]
  | cons cell rest ih =>
    simp only [Memory.insert]
    split
    · simp [Memory.get, Ne.symm h]
    · simp [Memory.get, ih]

theorem get_filter_same (m : Memory) (k : Nat) :
    Memory.get (m.filter fun cell => cell.1 != k) k = unlisted := by
  induction m with
  | nil => rfl
  | cons cell rest ih =>
    by_cases hk : cell.1 = k
    · simpa [hk] using ih
    · simpa [hk, Memory.get] using ih

theorem get_filter_other (m : Memory) (k j : Nat) (h : j ≠ k) :
    Memory.get (m.filter fun cell => cell.1 != k) j = Memory.get m j := by
  induction m with
  | nil => rfl
  | cons cell rest ih =>
    by_cases hk : cell.1 = k
    · simpa [hk, Memory.get, Ne.symm h] using ih
    · simp [hk, Memory.get, ih]

/-- A read after a write to the same key gives the value written. -/
@[simp] theorem get_set_same (m : Memory) (k : Nat) (v : Byte) : Memory.get (Memory.set m k v) k = v := by
  simp only [Memory.set]
  split
  · rw [get_filter_same]; exact Eq.symm ‹v = _›
  · exact get_insert_same _ k v (by simp)

/-- A write leaves every other key alone. -/
theorem get_set_other (m : Memory) (k j : Nat) (v : Byte) (h : j ≠ k) :
    Memory.get (Memory.set m k v) j = Memory.get m j := by
  simp only [Memory.set]
  split
  · exact get_filter_other m k j h
  · rw [get_insert_other _ k j v h, get_filter_other m k j h]

/-! ## The canonical form is kept -/

theorem mem_insert (m : Memory) (k : Nat) (v : Byte) (cell : Host.Cell) :
    cell ∈ Memory.insert m k v ↔ cell = (k, v) ∨ cell ∈ m := by
  induction m with
  | nil => simp [Memory.insert]
  | cons c rest ih =>
    simp only [Memory.insert]
    split
    · simp
    · simp [ih, or_left_comm]

/-- The cells after a write are the one written and cells that were there. -/
theorem mem_set (m : Memory) (k : Nat) (v : Byte) (cell : Host.Cell) (h : cell ∈ Memory.set m k v) :
    cell = (k, v) ∨ cell ∈ m := by
  simp only [Memory.set] at h
  split at h
  · exact .inr (List.mem_of_mem_filter h)
  · rcases (mem_insert _ _ _ _).1 h with h | h
    · exact .inl h
    · exact .inr (List.mem_of_mem_filter h)

theorem sorted_insert (m : Memory) (k : Nat) (v : Byte) (hm : (m.map Prod.fst).Pairwise (· < ·))
    (hk : ∀ cell ∈ m, cell.1 ≠ k) : ((Memory.insert m k v).map Prod.fst).Pairwise (· < ·) := by
  induction m with
  | nil => simp [Memory.insert]
  | cons c rest ih =>
    simp only [List.map_cons, List.pairwise_cons] at hm
    have hrest := ih hm.2 fun x hx => hk x (by simp [hx])
    simp only [Memory.insert]
    split
    · rename_i hlt
      simp only [List.map_cons, List.pairwise_cons]
      refine ⟨?_, hm⟩
      intro x hx
      rcases List.mem_cons.1 hx with rfl | hx
      · exact hlt
      · exact lt_trans hlt (hm.1 x hx)
    · rename_i hge
      have hc : c.1 < k := lt_of_le_of_ne (Nat.le_of_not_lt hge) (hk c (by simp))
      simp only [List.map_cons, List.pairwise_cons]
      refine ⟨?_, hrest⟩
      intro x hx
      obtain ⟨cell, hcell, rfl⟩ := List.mem_map.1 hx
      rcases (mem_insert _ _ _ _).1 hcell with rfl | hin
      · exact hc
      · exact hm.1 _ (List.mem_map_of_mem hin)

/-- Every write keeps the canonical form. -/
theorem set_wf (m : Memory) (k : Nat) (v : Byte) (h : Memory.wf m) : Memory.wf (Memory.set m k v) := by
  refine ⟨?_, ?_⟩
  · have hf : ((m.filter fun cell => cell.1 != k).map Prod.fst).Pairwise (· < ·) :=
      h.1.sublist (List.filter_sublist.map _)
    simp only [Memory.set]
    split
    · exact hf
    · exact sorted_insert _ k v hf (by simp)
  · intro cell hc
    by_cases hv : v = unlisted
    · simp only [Memory.set, hv, if_true] at hc
      exact h.2 cell (List.mem_of_mem_filter hc)
    · rcases mem_set m k v cell hc with rfl | hin
      · exact hv
      · exact h.2 cell hin

end Memory

end Sys2Proof.Machine
end

