-- ==== Sys2Proof/Laws/State.lean ====
section
/-! SUPPORT. The small lemmas of the state: what each update leaves and what it sets, one lemma per field per update. -/

namespace Sys2Proof.Machine

/-! ## Writing a general register -/

@[simp] theorem setReg8_flags (s : State) (r : Reg8) (v : Byte) : (s.setReg8 r v).flags = s.flags := by cases r <;> rfl
@[simp] theorem setReg8_pc (s : State) (r : Reg8) (v : Byte) : (s.setReg8 r v).pc = s.pc := by cases r <;> rfl
@[simp] theorem setReg8_sp (s : State) (r : Reg8) (v : Byte) : (s.setReg8 r v).sp = s.sp := by cases r <;> rfl
@[simp] theorem setReg8_ime (s : State) (r : Reg8) (v : Byte) : (s.setReg8 r v).ime = s.ime := by cases r <;> rfl
@[simp] theorem setReg8_halted (s : State) (r : Reg8) (v : Byte) : (s.setReg8 r v).halted = s.halted := by cases r <;> rfl
@[simp] theorem setReg8_eiCnt (s : State) (r : Reg8) (v : Byte) : (s.setReg8 r v).eiCnt = s.eiCnt := by cases r <;> rfl
@[simp] theorem setReg8_diCnt (s : State) (r : Reg8) (v : Byte) : (s.setReg8 r v).diCnt = s.diCnt := by cases r <;> rfl
@[simp] theorem setReg8_ie (s : State) (r : Reg8) (v : Byte) : (s.setReg8 r v).ie = s.ie := by cases r <;> rfl
@[simp] theorem setReg8_iflag (s : State) (r : Reg8) (v : Byte) : (s.setReg8 r v).iflag = s.iflag := by cases r <;> rfl
@[simp] theorem setReg8_divc (s : State) (r : Reg8) (v : Byte) : (s.setReg8 r v).divc = s.divc := by cases r <;> rfl
@[simp] theorem setReg8_tima (s : State) (r : Reg8) (v : Byte) : (s.setReg8 r v).tima = s.tima := by cases r <;> rfl
@[simp] theorem setReg8_tma (s : State) (r : Reg8) (v : Byte) : (s.setReg8 r v).tma = s.tma := by cases r <;> rfl
@[simp] theorem setReg8_tac (s : State) (r : Reg8) (v : Byte) : (s.setReg8 r v).tac = s.tac := by cases r <;> rfl
@[simp] theorem setReg8_timaAcc (s : State) (r : Reg8) (v : Byte) : (s.setReg8 r v).timaAcc = s.timaAcc := by cases r <;> rfl
@[simp] theorem setReg8_sb (s : State) (r : Reg8) (v : Byte) : (s.setReg8 r v).sb = s.sb := by cases r <;> rfl
@[simp] theorem setReg8_sc (s : State) (r : Reg8) (v : Byte) : (s.setReg8 r v).sc = s.sc := by cases r <;> rfl
@[simp] theorem setReg8_mem (s : State) (r : Reg8) (v : Byte) : (s.setReg8 r v).mem = s.mem := by cases r <;> rfl
@[simp] theorem setReg8_irqIn (s : State) (r : Reg8) (v : Byte) : (s.setReg8 r v).irqIn = s.irqIn := by cases r <;> rfl
@[simp] theorem setReg8_params (s : State) (r : Reg8) (v : Byte) : (s.setReg8 r v).params = s.params := by cases r <;> rfl

/-- A register reads as the value last written to it. -/
@[simp] theorem setReg8_reg8_same (s : State) (r : Reg8) (v : Byte) : (s.setReg8 r v).reg8 r = v := by cases r <;> rfl

/-- A write leaves every other register alone. -/
theorem setReg8_reg8_other (s : State) (r r' : Reg8) (v : Byte) (h : r' ≠ r) :
    (s.setReg8 r v).reg8 r' = s.reg8 r' := by
  cases r <;> cases r' <;> first | rfl | exact absurd rfl h


/-! ## Writing the pair BC -/

@[simp] theorem setBc_a (s : State) (v : Word) : (s.setBc v).a = s.a := rfl
@[simp] theorem setBc_d (s : State) (v : Word) : (s.setBc v).d = s.d := rfl
@[simp] theorem setBc_e (s : State) (v : Word) : (s.setBc v).e = s.e := rfl
@[simp] theorem setBc_h (s : State) (v : Word) : (s.setBc v).h = s.h := rfl
@[simp] theorem setBc_l (s : State) (v : Word) : (s.setBc v).l = s.l := rfl
@[simp] theorem setBc_flags (s : State) (v : Word) : (s.setBc v).flags = s.flags := rfl
@[simp] theorem setBc_pc (s : State) (v : Word) : (s.setBc v).pc = s.pc := rfl
@[simp] theorem setBc_sp (s : State) (v : Word) : (s.setBc v).sp = s.sp := rfl
@[simp] theorem setBc_ime (s : State) (v : Word) : (s.setBc v).ime = s.ime := rfl
@[simp] theorem setBc_halted (s : State) (v : Word) : (s.setBc v).halted = s.halted := rfl
@[simp] theorem setBc_eiCnt (s : State) (v : Word) : (s.setBc v).eiCnt = s.eiCnt := rfl
@[simp] theorem setBc_diCnt (s : State) (v : Word) : (s.setBc v).diCnt = s.diCnt := rfl
@[simp] theorem setBc_ie (s : State) (v : Word) : (s.setBc v).ie = s.ie := rfl
@[simp] theorem setBc_iflag (s : State) (v : Word) : (s.setBc v).iflag = s.iflag := rfl
@[simp] theorem setBc_divc (s : State) (v : Word) : (s.setBc v).divc = s.divc := rfl
@[simp] theorem setBc_tima (s : State) (v : Word) : (s.setBc v).tima = s.tima := rfl
@[simp] theorem setBc_tma (s : State) (v : Word) : (s.setBc v).tma = s.tma := rfl
@[simp] theorem setBc_tac (s : State) (v : Word) : (s.setBc v).tac = s.tac := rfl
@[simp] theorem setBc_timaAcc (s : State) (v : Word) : (s.setBc v).timaAcc = s.timaAcc := rfl
@[simp] theorem setBc_sb (s : State) (v : Word) : (s.setBc v).sb = s.sb := rfl
@[simp] theorem setBc_sc (s : State) (v : Word) : (s.setBc v).sc = s.sc := rfl
@[simp] theorem setBc_mem (s : State) (v : Word) : (s.setBc v).mem = s.mem := rfl
@[simp] theorem setBc_irqIn (s : State) (v : Word) : (s.setBc v).irqIn = s.irqIn := rfl
@[simp] theorem setBc_params (s : State) (v : Word) : (s.setBc v).params = s.params := rfl
@[simp] theorem setBc_b (s : State) (v : Word) : (s.setBc v).b = hiByte v := rfl
@[simp] theorem setBc_c (s : State) (v : Word) : (s.setBc v).c = loByte v := rfl

/-! ## Writing the pair DE -/

@[simp] theorem setDe_a (s : State) (v : Word) : (s.setDe v).a = s.a := rfl
@[simp] theorem setDe_b (s : State) (v : Word) : (s.setDe v).b = s.b := rfl
@[simp] theorem setDe_c (s : State) (v : Word) : (s.setDe v).c = s.c := rfl
@[simp] theorem setDe_h (s : State) (v : Word) : (s.setDe v).h = s.h := rfl
@[simp] theorem setDe_l (s : State) (v : Word) : (s.setDe v).l = s.l := rfl
@[simp] theorem setDe_flags (s : State) (v : Word) : (s.setDe v).flags = s.flags := rfl
@[simp] theorem setDe_pc (s : State) (v : Word) : (s.setDe v).pc = s.pc := rfl
@[simp] theorem setDe_sp (s : State) (v : Word) : (s.setDe v).sp = s.sp := rfl
@[simp] theorem setDe_ime (s : State) (v : Word) : (s.setDe v).ime = s.ime := rfl
@[simp] theorem setDe_halted (s : State) (v : Word) : (s.setDe v).halted = s.halted := rfl
@[simp] theorem setDe_eiCnt (s : State) (v : Word) : (s.setDe v).eiCnt = s.eiCnt := rfl
@[simp] theorem setDe_diCnt (s : State) (v : Word) : (s.setDe v).diCnt = s.diCnt := rfl
@[simp] theorem setDe_ie (s : State) (v : Word) : (s.setDe v).ie = s.ie := rfl
@[simp] theorem setDe_iflag (s : State) (v : Word) : (s.setDe v).iflag = s.iflag := rfl
@[simp] theorem setDe_divc (s : State) (v : Word) : (s.setDe v).divc = s.divc := rfl
@[simp] theorem setDe_tima (s : State) (v : Word) : (s.setDe v).tima = s.tima := rfl
@[simp] theorem setDe_tma (s : State) (v : Word) : (s.setDe v).tma = s.tma := rfl
@[simp] theorem setDe_tac (s : State) (v : Word) : (s.setDe v).tac = s.tac := rfl
@[simp] theorem setDe_timaAcc (s : State) (v : Word) : (s.setDe v).timaAcc = s.timaAcc := rfl
@[simp] theorem setDe_sb (s : State) (v : Word) : (s.setDe v).sb = s.sb := rfl
@[simp] theorem setDe_sc (s : State) (v : Word) : (s.setDe v).sc = s.sc := rfl
@[simp] theorem setDe_mem (s : State) (v : Word) : (s.setDe v).mem = s.mem := rfl
@[simp] theorem setDe_irqIn (s : State) (v : Word) : (s.setDe v).irqIn = s.irqIn := rfl
@[simp] theorem setDe_params (s : State) (v : Word) : (s.setDe v).params = s.params := rfl
@[simp] theorem setDe_d (s : State) (v : Word) : (s.setDe v).d = hiByte v := rfl
@[simp] theorem setDe_e (s : State) (v : Word) : (s.setDe v).e = loByte v := rfl

/-! ## Writing the pair HL -/

@[simp] theorem setHl_a (s : State) (v : Word) : (s.setHl v).a = s.a := rfl
@[simp] theorem setHl_b (s : State) (v : Word) : (s.setHl v).b = s.b := rfl
@[simp] theorem setHl_c (s : State) (v : Word) : (s.setHl v).c = s.c := rfl
@[simp] theorem setHl_d (s : State) (v : Word) : (s.setHl v).d = s.d := rfl
@[simp] theorem setHl_e (s : State) (v : Word) : (s.setHl v).e = s.e := rfl
@[simp] theorem setHl_flags (s : State) (v : Word) : (s.setHl v).flags = s.flags := rfl
@[simp] theorem setHl_pc (s : State) (v : Word) : (s.setHl v).pc = s.pc := rfl
@[simp] theorem setHl_sp (s : State) (v : Word) : (s.setHl v).sp = s.sp := rfl
@[simp] theorem setHl_ime (s : State) (v : Word) : (s.setHl v).ime = s.ime := rfl
@[simp] theorem setHl_halted (s : State) (v : Word) : (s.setHl v).halted = s.halted := rfl
@[simp] theorem setHl_eiCnt (s : State) (v : Word) : (s.setHl v).eiCnt = s.eiCnt := rfl
@[simp] theorem setHl_diCnt (s : State) (v : Word) : (s.setHl v).diCnt = s.diCnt := rfl
@[simp] theorem setHl_ie (s : State) (v : Word) : (s.setHl v).ie = s.ie := rfl
@[simp] theorem setHl_iflag (s : State) (v : Word) : (s.setHl v).iflag = s.iflag := rfl
@[simp] theorem setHl_divc (s : State) (v : Word) : (s.setHl v).divc = s.divc := rfl
@[simp] theorem setHl_tima (s : State) (v : Word) : (s.setHl v).tima = s.tima := rfl
@[simp] theorem setHl_tma (s : State) (v : Word) : (s.setHl v).tma = s.tma := rfl
@[simp] theorem setHl_tac (s : State) (v : Word) : (s.setHl v).tac = s.tac := rfl
@[simp] theorem setHl_timaAcc (s : State) (v : Word) : (s.setHl v).timaAcc = s.timaAcc := rfl
@[simp] theorem setHl_sb (s : State) (v : Word) : (s.setHl v).sb = s.sb := rfl
@[simp] theorem setHl_sc (s : State) (v : Word) : (s.setHl v).sc = s.sc := rfl
@[simp] theorem setHl_mem (s : State) (v : Word) : (s.setHl v).mem = s.mem := rfl
@[simp] theorem setHl_irqIn (s : State) (v : Word) : (s.setHl v).irqIn = s.irqIn := rfl
@[simp] theorem setHl_params (s : State) (v : Word) : (s.setHl v).params = s.params := rfl
@[simp] theorem setHl_h (s : State) (v : Word) : (s.setHl v).h = hiByte v := rfl
@[simp] theorem setHl_l (s : State) (v : Word) : (s.setHl v).l = loByte v := rfl

/-! ## Writing the pair AF -/

@[simp] theorem setAf_b (s : State) (v : Word) : (s.setAf v).b = s.b := rfl
@[simp] theorem setAf_c (s : State) (v : Word) : (s.setAf v).c = s.c := rfl
@[simp] theorem setAf_d (s : State) (v : Word) : (s.setAf v).d = s.d := rfl
@[simp] theorem setAf_e (s : State) (v : Word) : (s.setAf v).e = s.e := rfl
@[simp] theorem setAf_h (s : State) (v : Word) : (s.setAf v).h = s.h := rfl
@[simp] theorem setAf_l (s : State) (v : Word) : (s.setAf v).l = s.l := rfl
@[simp] theorem setAf_pc (s : State) (v : Word) : (s.setAf v).pc = s.pc := rfl
@[simp] theorem setAf_sp (s : State) (v : Word) : (s.setAf v).sp = s.sp := rfl
@[simp] theorem setAf_ime (s : State) (v : Word) : (s.setAf v).ime = s.ime := rfl
@[simp] theorem setAf_halted (s : State) (v : Word) : (s.setAf v).halted = s.halted := rfl
@[simp] theorem setAf_eiCnt (s : State) (v : Word) : (s.setAf v).eiCnt = s.eiCnt := rfl
@[simp] theorem setAf_diCnt (s : State) (v : Word) : (s.setAf v).diCnt = s.diCnt := rfl
@[simp] theorem setAf_ie (s : State) (v : Word) : (s.setAf v).ie = s.ie := rfl
@[simp] theorem setAf_iflag (s : State) (v : Word) : (s.setAf v).iflag = s.iflag := rfl
@[simp] theorem setAf_divc (s : State) (v : Word) : (s.setAf v).divc = s.divc := rfl
@[simp] theorem setAf_tima (s : State) (v : Word) : (s.setAf v).tima = s.tima := rfl
@[simp] theorem setAf_tma (s : State) (v : Word) : (s.setAf v).tma = s.tma := rfl
@[simp] theorem setAf_tac (s : State) (v : Word) : (s.setAf v).tac = s.tac := rfl
@[simp] theorem setAf_timaAcc (s : State) (v : Word) : (s.setAf v).timaAcc = s.timaAcc := rfl
@[simp] theorem setAf_sb (s : State) (v : Word) : (s.setAf v).sb = s.sb := rfl
@[simp] theorem setAf_sc (s : State) (v : Word) : (s.setAf v).sc = s.sc := rfl
@[simp] theorem setAf_mem (s : State) (v : Word) : (s.setAf v).mem = s.mem := rfl
@[simp] theorem setAf_irqIn (s : State) (v : Word) : (s.setAf v).irqIn = s.irqIn := rfl
@[simp] theorem setAf_params (s : State) (v : Word) : (s.setAf v).params = s.params := rfl
@[simp] theorem setAf_a (s : State) (v : Word) : (s.setAf v).a = hiByte v := rfl
@[simp] theorem setAf_flags (s : State) (v : Word) : (s.setAf v).flags = Flags.ofByte (loByte v) := rfl

/-! ## Writing the destination of `ld rr,nn` -/

@[simp] theorem setPair_a (s : State) (p : Pair) (v : Word) : (s.setPair p v).a = s.a := by cases p <;> rfl
@[simp] theorem setPair_flags (s : State) (p : Pair) (v : Word) : (s.setPair p v).flags = s.flags := by cases p <;> rfl
@[simp] theorem setPair_pc (s : State) (p : Pair) (v : Word) : (s.setPair p v).pc = s.pc := by cases p <;> rfl
@[simp] theorem setPair_ime (s : State) (p : Pair) (v : Word) : (s.setPair p v).ime = s.ime := by cases p <;> rfl
@[simp] theorem setPair_halted (s : State) (p : Pair) (v : Word) : (s.setPair p v).halted = s.halted := by cases p <;> rfl
@[simp] theorem setPair_eiCnt (s : State) (p : Pair) (v : Word) : (s.setPair p v).eiCnt = s.eiCnt := by cases p <;> rfl
@[simp] theorem setPair_diCnt (s : State) (p : Pair) (v : Word) : (s.setPair p v).diCnt = s.diCnt := by cases p <;> rfl
@[simp] theorem setPair_ie (s : State) (p : Pair) (v : Word) : (s.setPair p v).ie = s.ie := by cases p <;> rfl
@[simp] theorem setPair_iflag (s : State) (p : Pair) (v : Word) : (s.setPair p v).iflag = s.iflag := by cases p <;> rfl
@[simp] theorem setPair_divc (s : State) (p : Pair) (v : Word) : (s.setPair p v).divc = s.divc := by cases p <;> rfl
@[simp] theorem setPair_tima (s : State) (p : Pair) (v : Word) : (s.setPair p v).tima = s.tima := by cases p <;> rfl
@[simp] theorem setPair_tma (s : State) (p : Pair) (v : Word) : (s.setPair p v).tma = s.tma := by cases p <;> rfl
@[simp] theorem setPair_tac (s : State) (p : Pair) (v : Word) : (s.setPair p v).tac = s.tac := by cases p <;> rfl
@[simp] theorem setPair_timaAcc (s : State) (p : Pair) (v : Word) : (s.setPair p v).timaAcc = s.timaAcc := by cases p <;> rfl
@[simp] theorem setPair_sb (s : State) (p : Pair) (v : Word) : (s.setPair p v).sb = s.sb := by cases p <;> rfl
@[simp] theorem setPair_sc (s : State) (p : Pair) (v : Word) : (s.setPair p v).sc = s.sc := by cases p <;> rfl
@[simp] theorem setPair_mem (s : State) (p : Pair) (v : Word) : (s.setPair p v).mem = s.mem := by cases p <;> rfl
@[simp] theorem setPair_irqIn (s : State) (p : Pair) (v : Word) : (s.setPair p v).irqIn = s.irqIn := by cases p <;> rfl
@[simp] theorem setPair_params (s : State) (p : Pair) (v : Word) : (s.setPair p v).params = s.params := by cases p <;> rfl

/-! ## Writing an I/O register -/

@[simp] theorem writeIo_a (s : State) (r : IoRegister) (v : Byte) : (s.writeIo r v).a = s.a := by cases r <;> rfl
@[simp] theorem writeIo_b (s : State) (r : IoRegister) (v : Byte) : (s.writeIo r v).b = s.b := by cases r <;> rfl
@[simp] theorem writeIo_c (s : State) (r : IoRegister) (v : Byte) : (s.writeIo r v).c = s.c := by cases r <;> rfl
@[simp] theorem writeIo_d (s : State) (r : IoRegister) (v : Byte) : (s.writeIo r v).d = s.d := by cases r <;> rfl
@[simp] theorem writeIo_e (s : State) (r : IoRegister) (v : Byte) : (s.writeIo r v).e = s.e := by cases r <;> rfl
@[simp] theorem writeIo_h (s : State) (r : IoRegister) (v : Byte) : (s.writeIo r v).h = s.h := by cases r <;> rfl
@[simp] theorem writeIo_l (s : State) (r : IoRegister) (v : Byte) : (s.writeIo r v).l = s.l := by cases r <;> rfl
@[simp] theorem writeIo_flags (s : State) (r : IoRegister) (v : Byte) : (s.writeIo r v).flags = s.flags := by cases r <;> rfl
@[simp] theorem writeIo_pc (s : State) (r : IoRegister) (v : Byte) : (s.writeIo r v).pc = s.pc := by cases r <;> rfl
@[simp] theorem writeIo_sp (s : State) (r : IoRegister) (v : Byte) : (s.writeIo r v).sp = s.sp := by cases r <;> rfl
@[simp] theorem writeIo_ime (s : State) (r : IoRegister) (v : Byte) : (s.writeIo r v).ime = s.ime := by cases r <;> rfl
@[simp] theorem writeIo_halted (s : State) (r : IoRegister) (v : Byte) : (s.writeIo r v).halted = s.halted := by cases r <;> rfl
@[simp] theorem writeIo_eiCnt (s : State) (r : IoRegister) (v : Byte) : (s.writeIo r v).eiCnt = s.eiCnt := by cases r <;> rfl
@[simp] theorem writeIo_diCnt (s : State) (r : IoRegister) (v : Byte) : (s.writeIo r v).diCnt = s.diCnt := by cases r <;> rfl
@[simp] theorem writeIo_ie (s : State) (r : IoRegister) (v : Byte) : (s.writeIo r v).ie = s.ie := by cases r <;> rfl
@[simp] theorem writeIo_timaAcc (s : State) (r : IoRegister) (v : Byte) : (s.writeIo r v).timaAcc = s.timaAcc := by cases r <;> rfl
@[simp] theorem writeIo_mem (s : State) (r : IoRegister) (v : Byte) : (s.writeIo r v).mem = s.mem := by cases r <;> rfl
@[simp] theorem writeIo_irqIn (s : State) (r : IoRegister) (v : Byte) : (s.writeIo r v).irqIn = s.irqIn := by cases r <;> rfl
@[simp] theorem writeIo_params (s : State) (r : IoRegister) (v : Byte) : (s.writeIo r v).params = s.params := by cases r <;> rfl

/-! ## Updates that the bus does not see -/

@[simp] theorem load8_with_pc (s : State) (x : Word) (addr : Word) : load8 { s with pc := x } addr = load8 s addr := rfl
@[simp] theorem load8_with_sp (s : State) (x : Word) (addr : Word) : load8 { s with sp := x } addr = load8 s addr := rfl
@[simp] theorem load8_with_flags (s : State) (x : Flags) (addr : Word) : load8 { s with flags := x } addr = load8 s addr := rfl
@[simp] theorem load8_with_ime (s : State) (x : Bool) (addr : Word) : load8 { s with ime := x } addr = load8 s addr := rfl
@[simp] theorem load8_with_halted (s : State) (x : Bool) (addr : Word) : load8 { s with halted := x } addr = load8 s addr := rfl
@[simp] theorem load8_with_eiCnt (s : State) (x : Countdown) (addr : Word) : load8 { s with eiCnt := x } addr = load8 s addr := rfl
@[simp] theorem load8_with_diCnt (s : State) (x : Countdown) (addr : Word) : load8 { s with diCnt := x } addr = load8 s addr := rfl
@[simp] theorem load8_with_timaAcc (s : State) (x : Nat) (addr : Word) : load8 { s with timaAcc := x } addr = load8 s addr := rfl
@[simp] theorem load8_with_irqIn (s : State) (x : List IrqIn) (addr : Word) : load8 { s with irqIn := x } addr = load8 s addr := rfl
@[simp] theorem load8_with_a (s : State) (x : Byte) (addr : Word) : load8 { s with a := x } addr = load8 s addr := rfl
@[simp] theorem load8_with_b (s : State) (x : Byte) (addr : Word) : load8 { s with b := x } addr = load8 s addr := rfl
@[simp] theorem load8_with_c (s : State) (x : Byte) (addr : Word) : load8 { s with c := x } addr = load8 s addr := rfl
@[simp] theorem load8_with_d (s : State) (x : Byte) (addr : Word) : load8 { s with d := x } addr = load8 s addr := rfl
@[simp] theorem load8_with_e (s : State) (x : Byte) (addr : Word) : load8 { s with e := x } addr = load8 s addr := rfl
@[simp] theorem load8_with_h (s : State) (x : Byte) (addr : Word) : load8 { s with h := x } addr = load8 s addr := rfl
@[simp] theorem load8_with_l (s : State) (x : Byte) (addr : Word) : load8 { s with l := x } addr = load8 s addr := rfl

/-- A load does not see a write of a general register. -/
@[simp] theorem load8_setReg8 (s : State) (r : Reg8) (v : Byte) (addr : Word) :
    load8 (s.setReg8 r v) addr = load8 s addr := by cases r <;> rfl

/-- A load does not see a write of a pair or SP. -/
@[simp] theorem load8_setPair (s : State) (p : Pair) (v : Word) (addr : Word) :
    load8 (s.setPair p v) addr = load8 s addr := by cases p <;> rfl

/-! ## Bytes and words -/

@[simp] theorem hiByte_join (hi lo : Byte) : hiByte (join hi lo) = hi := BitVec.extractLsb'_append_eq_left

@[simp] theorem loByte_join (hi lo : Byte) : loByte (join hi lo) = lo := BitVec.extractLsb'_append_eq_right

/-- A word is its high byte times 256 plus its low byte. -/
theorem join_toNat (hi lo : Byte) : (join hi lo).toNat = hi.toNat * 256 + lo.toNat := by
  show (hi ++ lo).toNat = _
  rw [BitVec.toNat_append, ← Nat.shiftLeft_add_eq_or_of_lt lo.isLt, Nat.shiftLeft_eq]

/-- The flag byte made from a byte: its high nibble, and a low nibble of zeros (spec/10_state.md R23). -/
theorem toByte_ofByte_getLsbD (v : Byte) (i : Nat) :
    (Flags.toByte (Flags.ofByte v)).getLsbD i = (decide (4 ≤ i) && v.getLsbD i) := by
  by_cases h : i < 8
  · have : i = 0 ∨ i = 1 ∨ i = 2 ∨ i = 3 ∨ i = 4 ∨ i = 5 ∨ i = 6 ∨ i = 7 := by omega
    rcases this with h | h | h | h | h | h | h | h <;> subst h <;>
      simp only [Flags.toByte, Flags.ofByte, BitVec.getLsbD_append, BitVec.getLsbD_ofBool] <;> simp
  · rw [BitVec.getLsbD_of_ge _ _ (by omega), BitVec.getLsbD_of_ge _ _ (by omega)]; simp

@[simp] theorem join_hiByte_loByte (v : Word) : join (hiByte v) (loByte v) = v := by
  show (v.extractLsb' 8 8 ++ v.extractLsb' 0 8 : BitVec (8 + 8)) = v
  apply BitVec.eq_of_getLsbD_eq
  intro i h
  simp only [BitVec.getLsbD_append, BitVec.getLsbD_extractLsb']
  split
  · simp [*]
  · simp [show i - 8 < 8 by omega, show 8 + (i - 8) = i by omega]


end Sys2Proof.Machine
end

