-- ==== Sys2Proof/Laws/Bus.lean ====
section
/-! SUPPORT. The laws of the bus: which window an address falls in, everything `load8` and `store8` can do, and what a store
leaves alone. -/

namespace Sys2Proof.Machine

/-! ## Windows -/

/-- The window of an address, with the range that puts it there. -/
theorem window_cases (address : Word) :
    (window address = .rom ∧ address.toNat < 0x4000) ∨
    (window address = .romBank ∧ 0x4000 ≤ address.toNat ∧ address.toNat < 0x8000) ∨
    (window address = .videoRam ∧ 0x8000 ≤ address.toNat ∧ address.toNat < 0xA000) ∨
    (window address = .externalRam ∧ 0xA000 ≤ address.toNat ∧ address.toNat < 0xC000) ∨
    (window address = .workingRam ∧ 0xC000 ≤ address.toNat ∧ address.toNat < 0xE000) ∨
    (window address = .echoRam ∧ 0xE000 ≤ address.toNat ∧ address.toNat < 0xFE00) ∨
    (window address = .oam ∧ 0xFE00 ≤ address.toNat ∧ address.toNat < 0xFEA0) ∨
    (window address = .unusable ∧ 0xFEA0 ≤ address.toNat ∧ address.toNat < 0xFF00) ∨
    (window address = .io ∧ 0xFF00 ≤ address.toNat ∧ address.toNat < 0xFF80) ∨
    (window address = .highRam ∧ 0xFF80 ≤ address.toNat ∧ address.toNat < 0xFFFF) ∨
    (window address = .interruptEnable ∧ address.toNat = 0xFFFF) := by
  have hlt := address.isLt
  simp only [window]
  split_ifs <;> simp <;> omega

/-- The key of an address outside the echo window is the address. -/
theorem cellKey_of_ne_echo (address : Word) (h : window address ≠ .echoRam) : cellKey address = address.toNat := by
  unfold cellKey
  cases hw : window address <;> simp_all

theorem cellKey_of_echo (address : Word) (h : window address = .echoRam) : cellKey address = address.toNat - 0x2000 := by
  unfold cellKey
  simp [h]

/-- A key determines its address up to the echo alias. -/
theorem cellKey_eq (address : Word) :
    cellKey address = if 0xE000 ≤ address.toNat ∧ address.toNat < 0xFE00 then address.toNat - 0x2000 else address.toNat := by
  rcases window_cases address with h | h | h | h | h | h | h | h | h | h | h <;> simp only [cellKey, h.1] <;> split <;> omega

/-- From 0xFF00 up an address is the only name of its byte. -/
theorem sameByte_eq {a b : Word} (h : 0xFF00 ≤ a.toNat) (hb : SameByte b a) : b = a := by
  have h1 := cellKey_eq b
  have h2 := cellKey_eq a
  have h3 := b.isLt
  rw [SameByte] at hb
  apply BitVec.eq_of_toNat_eq
  split at h1 <;> split at h2 <;> omega

/-- The range of the I/O window. -/
theorem window_io_range {a : Word} (h : window a = .io) : 0xFF00 ≤ a.toNat ∧ a.toNat ≤ 0xFF7F := by
  rcases window_cases a with h1 | h1 | h1 | h1 | h1 | h1 | h1 | h1 | h1 | h1 | h1 <;> simp [h] at h1
  omega

/-- The I/O address each handler has. -/
theorem ioRegister_eq_some (address : Word) (r : IoRegister) :
    ioRegister address = some r ↔
      (r = .sb ∧ address = 0xFF01) ∨ (r = .sc ∧ address = 0xFF02) ∨ (r = .div ∧ address = 0xFF04) ∨
      (r = .tima ∧ address = 0xFF05) ∨ (r = .tma ∧ address = 0xFF06) ∨ (r = .tac ∧ address = 0xFF07) ∨
      (r = .iflag ∧ address = 0xFF0F) := by
  have key : ∀ n : Nat, n < 65536 → (address = BitVec.ofNat 16 n ↔ address.toNat = n) := fun n hn => by
    rw [← BitVec.toNat_inj]; simp [Nat.mod_eq_of_lt hn]
  have e := fun n hn => key n hn
  simp only [show (0xFF01 : Word) = BitVec.ofNat 16 0xFF01 from rfl, show (0xFF02 : Word) = BitVec.ofNat 16 0xFF02 from rfl,
    show (0xFF04 : Word) = BitVec.ofNat 16 0xFF04 from rfl, show (0xFF05 : Word) = BitVec.ofNat 16 0xFF05 from rfl,
    show (0xFF06 : Word) = BitVec.ofNat 16 0xFF06 from rfl, show (0xFF07 : Word) = BitVec.ofNat 16 0xFF07 from rfl,
    show (0xFF0F : Word) = BitVec.ofNat 16 0xFF0F from rfl]
  rw [e 0xFF01 (by norm_num), e 0xFF02 (by norm_num), e 0xFF04 (by norm_num), e 0xFF05 (by norm_num),
    e 0xFF06 (by norm_num), e 0xFF07 (by norm_num), e 0xFF0F (by norm_num)]
  unfold ioRegister
  split <;> simp_all <;> cases r <;> simp

/-! ## Stores -/

/-- Everything a successful store can be. -/
theorem store8_cases {s t : State} {address : Word} {v : Byte} (h : store8 s address v = .ok t) :
    (((0xA000 ≤ address.toNat ∧ address.toNat < 0xFE00) ∨ (0xFF80 ≤ address.toNat ∧ address.toNat < 0xFFFF)) ∧
      ramKey (cellKey address) ∧ t = { s with mem := Memory.set s.mem (cellKey address) v }) ∨
    (window address = .io ∧ ∃ r, ioRegister address = some r ∧ t = s.writeIo r v) ∨
    (window address = .io ∧ ioRegister address = none ∧ t = s) ∨
    (address.toNat = 0xFFFF ∧ t = { s with ie := v }) := by
  have hk := cellKey_eq address
  rcases window_cases address with hw | hw | hw | hw | hw | hw | hw | hw | hw | hw | hw <;>
    simp only [store8, hw.1, reduceCtorEq, Except.ok.injEq] at h
  case inr.inr.inr.inr.inr.inr.inr.inr.inl =>
    cases hr : ioRegister address with
    | none => simp only [hr, Except.ok.injEq] at h; exact .inr (.inr (.inl ⟨hw.1, rfl, h.symm⟩))
    | some r => simp only [hr, Except.ok.injEq] at h; exact .inr (.inl ⟨hw.1, r, rfl, h.symm⟩)
  case inr.inr.inr.inr.inr.inr.inr.inr.inr.inr => exact .inr (.inr (.inr ⟨hw.2, h.symm⟩))
  all_goals
    refine .inl ⟨by omega, ?_, h.symm⟩
    rw [hk]; split <;> (simp only [ramKey]; omega)

/-- A store succeeds exactly at the addresses `StoreMapped` names. -/
theorem store8_ok_iff (s : State) (address : Word) (v : Byte) :
    (∃ t, store8 s address v = .ok t) ↔ StoreMapped address := by
  rcases window_cases address with hw | hw | hw | hw | hw | hw | hw | hw | hw | hw | hw <;>
    simp only [store8, hw.1, StoreMapped] <;>
    cases ioRegister address <;> simp <;> omega

/-- Where a store does not succeed it is fatal with its address. -/
theorem store8_error (s : State) (address : Word) (v : Byte) (h : ¬ StoreMapped address) :
    store8 s address v = .error (.unmapped address .store) := by
  cases hs : store8 s address v with
  | ok t => exact absurd ((store8_ok_iff s address v).1 ⟨t, hs⟩) h
  | error f =>
    revert hs
    simp only [store8]
    cases window address <;> simp <;> cases ioRegister address <;> simp_all

/-- What no store changes. -/
theorem store8_frame {s t : State} {address : Word} {v : Byte} (h : store8 s address v = .ok t) :
    SameRegs [] s t ∧ t.flags = s.flags ∧ t.pc = s.pc ∧ t.sp = s.sp ∧ t.ime = s.ime ∧ t.halted = s.halted ∧
    t.eiCnt = s.eiCnt ∧ t.diCnt = s.diCnt ∧ t.timaAcc = s.timaAcc ∧ t.irqIn = s.irqIn ∧ t.params = s.params := by
  rcases store8_cases h with ⟨-, -, rfl⟩ | ⟨-, r, -, rfl⟩ | ⟨-, -, rfl⟩ | ⟨-, rfl⟩
  · exact ⟨fun r _ => by cases r <;> rfl, rfl, rfl, rfl, rfl, rfl, rfl, rfl, rfl, rfl, rfl⟩
  · cases r <;> exact ⟨fun r _ => by cases r <;> rfl, rfl, rfl, rfl, rfl, rfl, rfl, rfl, rfl, rfl, rfl⟩
  · exact ⟨fun _ _ => rfl, rfl, rfl, rfl, rfl, rfl, rfl, rfl, rfl, rfl, rfl⟩
  · exact ⟨fun r _ => by cases r <;> rfl, rfl, rfl, rfl, rfl, rfl, rfl, rfl, rfl, rfl, rfl⟩

/-! ## Loads -/

/-- A load succeeds exactly at the addresses `LoadMapped` names. -/
theorem load8_ok_iff (s : State) (address : Word) : (∃ v, load8 s address = .ok v) ↔ LoadMapped s address := by
  rcases window_cases address with hw | hw | hw | hw | hw | hw | hw | hw | hw | hw | hw <;>
    simp only [load8, hw.1, LoadMapped]
  case inr.inl =>
    split
    · simp; omega
    · simp; omega
  case inr.inr.inr.inr.inr.inr.inr.inr.inl => cases ioRegister address <;> simp <;> omega
  all_goals simp <;> omega

/-- Where a load does not succeed it is fatal with its address. -/
theorem load8_error (s : State) (address : Word) (h : ¬ LoadMapped s address) :
    load8 s address = .error (.unmapped address .load) := by
  cases hs : load8 s address with
  | ok v => exact absurd ((load8_ok_iff s address).1 ⟨v, hs⟩) h
  | error f =>
    revert hs
    simp only [load8]
    cases window address <;> simp <;> first | (split <;> simp_all) | (cases ioRegister address <;> simp_all)

/-- A load reads only memory, the ROM image and the registers with a bus address. -/
theorem load8_congr {s t : State} (address : Word) (hm : t.mem = s.mem) (hp : t.params = s.params)
    (hd : SameDevices s t) (hv : hiByte t.divc = hiByte s.divc) : load8 t address = load8 s address := by
  obtain ⟨h1, h2, h3, h4, h5, h6, h7⟩ := hd
  have hl : t.romLen = s.romLen := by simp [State.romLen, hp]
  have hio : ∀ r, t.readIo r = s.readIo r := fun r => by cases r <;> simp only [State.readIo, *]
  simp only [load8, hm, hp, h1, hl, hio]

/-- A store leaves every byte but its own (and its alias) as it read. -/
theorem load8_store8_other {s t : State} {address : Word} {v : Byte} (h : store8 s address v = .ok t) (b : Word)
    (hb : ¬ SameByte b address) : load8 t b = load8 s b := by
  rcases store8_cases h with ⟨-, -, rfl⟩ | ⟨hw, r, hr, rfl⟩ | ⟨-, -, rfl⟩ | ⟨ha, rfl⟩
  · have hg : Memory.get (Memory.set s.mem (cellKey address) v) (cellKey b) = Memory.get s.mem (cellKey b) :=
      Memory.get_set_other _ _ _ _ hb
    simp only [load8, hg]
    rfl
  · have hne : b ≠ address := fun e => hb (e ▸ rfl)
    have hio : ∀ r', ioRegister b = some r' → (s.writeIo r v).readIo r' = s.readIo r' := fun r' hr' => by
      have hrr : r' ≠ r := by
        rintro rfl
        rw [ioRegister_eq_some] at hr hr'
        exact hne (by rcases hr with h | h | h | h | h | h | h <;> rcases hr' with h' | h' | h' | h' | h' | h' | h' <;> simp_all)
      cases r <;> cases r' <;> first | rfl | exact absurd rfl hrr
    have hl : (s.writeIo r v).romLen = s.romLen := by simp [State.romLen]
    simp only [load8, writeIo_mem, writeIo_params, writeIo_ie, hl]
    cases hb' : ioRegister b with
    | none => rfl
    | some r' => simp only [hio r' hb']
  · rfl
  · have hw : window b ≠ .interruptEnable := fun e => hb (by
      have hb' : b.toNat = 0xFFFF := by rcases window_cases b with h | h | h | h | h | h | h | h | h | h | h <;> simp_all
      rw [SameByte, show b = address from BitVec.eq_of_toNat_eq (by omega)])
    simp only [load8]
    cases hx : window b <;> simp_all <;> rfl

/-- A byte stored in RAM reads back through either alias. -/
theorem load8_store8_ram {s t : State} {address : Word} {v : Byte} (h : store8 s address v = .ok t)
    (hr : (0xA000 ≤ address.toNat ∧ address.toNat < 0xFE00) ∨ (0xFF80 ≤ address.toNat ∧ address.toNat < 0xFFFF))
    (b : Word) (hb : SameByte b address) : load8 t b = .ok v := by
  have hk := cellKey_eq b
  have hk' := cellKey_eq address
  have hlt := b.isLt
  rw [SameByte] at hb
  have ht : t = { s with mem := Memory.set s.mem (cellKey address) v } := by
    rcases window_cases address with hw | hw | hw | hw | hw | hw | hw | hw | hw | hw | hw <;>
      first | (exfalso; omega) | (simp only [store8, hw.1, Except.ok.injEq] at h; exact h.symm)
  subst ht
  rcases window_cases b with hw | hw | hw | hw | hw | hw | hw | hw | hw | hw | hw <;>
    first
    | (exfalso; split at hk <;> split at hk' <;> omega)
    | simp only [load8, hw.1, hb, Memory.get_set_same]

end Sys2Proof.Machine
end

