-- ==== Sys2Proof/Laws/Ops.lean ====
section
/-! SUPPORT. The laws of the shared operations: fetching, the stack, the countdowns, the interrupt check and dispatch. Each is
said once; later proofs cite it instead of unfolding. -/

namespace Sys2Proof.Machine

/-- A sequence succeeds exactly where both parts do. -/
theorem bind_eq_ok {α β : Type} (x : Except Fault α) (f : α → Except Fault β) (r : β) :
    (x >>= f) = .ok r ↔ ∃ a, x = .ok a ∧ f a = .ok r := by
  cases x <;> simp [bind, Except.bind]

/-- A sequence fails where its first part fails, or the second does. -/
theorem bind_eq_error {α β : Type} (x : Except Fault α) (f : α → Except Fault β) (e : Fault) :
    (x >>= f) = .error e ↔ x = .error e ∨ ∃ a, x = .ok a ∧ f a = .error e := by
  cases x <;> simp [bind, Except.bind]

@[simp] theorem ok_bind {α β : Type} (a : α) (f : α → Except Fault β) : (Except.ok a >>= f) = f a := rfl

@[simp] theorem error_bind {α β : Type} (e : Fault) (f : α → Except Fault β) :
    ((Except.error e : Except Fault α) >>= f) = .error e := rfl

@[simp] theorem finish_ok (s : State) : finish (.ok s) = .next s := rfl

@[simp] theorem finish_error (f : Fault) : finish (.error f) = .fault f := rfl

@[simp] theorem finish_eq_next (r : Except Fault State) (t : State) : finish r = .next t ↔ r = .ok t := by
  cases r <;> simp [finish]

/-! ## Fetching -/

theorem fetch8_ok {s : State} {v : Byte} (h : load8 s s.pc = .ok v) :
    fetch8 s = .ok (v, { s with pc := s.pc + 1 }) := by
  simp only [fetch8, h]; rfl

theorem fetch8_error {s : State} {f : Fault} (h : load8 s s.pc = .error f) : fetch8 s = .error f := by
  simp [fetch8, h]

/-- A fetch changes PC and nothing else. -/
theorem fetch8_frame {s s' : State} {v : Byte} (h : fetch8 s = .ok (v, s')) : s' = { s with pc := s.pc + 1 } := by
  cases hl : load8 s s.pc with
  | ok w => rw [fetch8_ok hl] at h; simp_all
  | error f => rw [fetch8_error hl] at h; simp_all

theorem fetch16_frame {s s' : State} {v : Word} (h : fetch16 s = .ok (v, s')) : s' = { s with pc := s'.pc } := by
  simp only [fetch16, bind_eq_ok] at h
  obtain ⟨⟨lo, s1⟩, h1, ⟨hi, s2⟩, h2, h3⟩ := h
  have e1 := fetch8_frame h1
  have e2 := fetch8_frame h2
  simp only [pure, Except.pure, Except.ok.injEq, Prod.mk.injEq] at h3
  obtain ⟨-, rfl⟩ := h3
  rw [e2, e1]

theorem fetchInstr_frame {s s' : State} {i : Instr} (h : fetchInstr s = .ok (i, s')) : s' = { s with pc := s'.pc } := by
  simp only [fetchInstr, bind_eq_ok] at h
  obtain ⟨⟨op, s1⟩, h1, h2⟩ := h
  have e1 := fetch8_frame h1
  simp only at h2
  split at h2
  · simp [throw, throwThe, MonadExceptOf.throw] at h2
  · simp only [pure, Except.pure, Except.ok.injEq, Prod.mk.injEq] at h2
    obtain ⟨-, rfl⟩ := h2; rw [e1]
  · simp only [bind_eq_ok] at h2
    obtain ⟨⟨n, s2⟩, h2, h3⟩ := h2
    have e2 := fetch8_frame h2
    simp only [pure, Except.pure, Except.ok.injEq, Prod.mk.injEq] at h3
    obtain ⟨-, rfl⟩ := h3; rw [e2, e1]
  · simp only [bind_eq_ok] at h2
    obtain ⟨⟨n, s2⟩, h2, h3⟩ := h2
    have e2 := fetch8_frame h2
    simp only [pure, Except.pure, Except.ok.injEq, Prod.mk.injEq] at h3
    obtain ⟨-, rfl⟩ := h3; rw [e2, e1]
  · simp only [bind_eq_ok] at h2
    obtain ⟨⟨n, s2⟩, h2, h3⟩ := h2
    have e2 := fetch16_frame h2
    simp only [pure, Except.pure, Except.ok.injEq, Prod.mk.injEq] at h3
    obtain ⟨-, rfl⟩ := h3; rw [e2, e1]

/-! ## The stack -/

/-- A push is two stores below SP. -/
theorem push16_ok {s t : State} {v : Word} : push16 s v = .ok t ↔
    ∃ m, store8 { s with sp := s.sp - 2 } (s.sp - 2) (loByte v) = .ok m ∧
      store8 m (s.sp - 2 + 1) (hiByte v) = .ok t := by
  simp [push16, store16, bind_eq_ok]

/-- A pop is two loads at SP. -/
theorem pop16_ok {s t : State} {v : Word} : pop16 s = .ok (v, t) ↔
    ∃ lo hi, load8 s s.sp = .ok lo ∧ load8 s (s.sp + 1) = .ok hi ∧ v = join hi lo ∧ t = { s with sp := s.sp + 2 } := by
  simp only [pop16, load16, bind_eq_ok, pure, Except.pure, Except.ok.injEq, Prod.mk.injEq]
  constructor
  · rintro ⟨w, ⟨lo, h1, hi, h2, h3⟩, h4, h5⟩
    exact ⟨lo, hi, h1, h2, by rw [← h4, ← h3], h5.symm⟩
  · rintro ⟨lo, hi, h1, h2, rfl, rfl⟩
    exact ⟨_, ⟨lo, h1, hi, h2, rfl⟩, rfl, rfl⟩

/-- What a push leaves alone. -/
theorem push16_frame {s t : State} {v : Word} (h : push16 s v = .ok t) :
    SameRegs [] s t ∧ t.flags = s.flags ∧ t.pc = s.pc ∧ t.sp = s.sp - 2 ∧ t.ime = s.ime ∧ t.halted = s.halted ∧
    t.eiCnt = s.eiCnt ∧ t.diCnt = s.diCnt ∧ t.timaAcc = s.timaAcc ∧ t.irqIn = s.irqIn ∧ t.params = s.params := by
  obtain ⟨m, h1, h2⟩ := push16_ok.1 h
  obtain ⟨r1, a1, a2, a3, a4, a5, a6, a7, a8, a9, a10⟩ := store8_frame h1
  obtain ⟨r2, b1, b2, b3, b4, b5, b6, b7, b8, b9, b10⟩ := store8_frame h2
  exact ⟨fun r hr => (r2 r hr).trans ((r1 r hr).trans (by cases r <;> rfl)), b1.trans a1, b2.trans a2, b3.trans a3,
    b4.trans a4, b5.trans a5, b6.trans a6, b7.trans a7, b8.trans a8, b9.trans a9, b10.trans a10⟩

/-! ## Countdowns -/

theorem countDisable_eq (s : State) : countDisable s =
    { s with ime := if s.diCnt = .one then false else s.ime
             diCnt := match s.diCnt with | .two => .one | .one => .idle | .idle => .idle } := by
  unfold countDisable
  split <;> rename_i h <;> simp [h]
  rw [← h]

theorem countEnable_eq (s : State) : countEnable s =
    { s with ime := if s.eiCnt = .one then true else s.ime
             eiCnt := match s.eiCnt with | .two => .one | .one => .idle | .idle => .idle } := by
  unfold countEnable
  split <;> rename_i h <;> simp [h]
  rw [← h]

/-- The countdowns touch `ei_cnt`, `di_cnt` and IME only. -/
theorem updateCountdowns_eq (s : State) : updateCountdowns s =
    { s with ime := (updateCountdowns s).ime, eiCnt := (updateCountdowns s).eiCnt, diCnt := (updateCountdowns s).diCnt } := by
  simp only [updateCountdowns, countEnable_eq, countDisable_eq]

section Frame

variable (s : State)

@[simp] theorem updateCountdowns_reg8 (r : Reg8) : (updateCountdowns s).reg8 r = s.reg8 r := by
  rw [updateCountdowns_eq]; cases r <;> rfl
@[simp] theorem updateCountdowns_flags : (updateCountdowns s).flags = s.flags := by rw [updateCountdowns_eq]
@[simp] theorem updateCountdowns_pc : (updateCountdowns s).pc = s.pc := by rw [updateCountdowns_eq]
@[simp] theorem updateCountdowns_sp : (updateCountdowns s).sp = s.sp := by rw [updateCountdowns_eq]
@[simp] theorem updateCountdowns_halted : (updateCountdowns s).halted = s.halted := by rw [updateCountdowns_eq]
@[simp] theorem updateCountdowns_ie : (updateCountdowns s).ie = s.ie := by rw [updateCountdowns_eq]
@[simp] theorem updateCountdowns_iflag : (updateCountdowns s).iflag = s.iflag := by rw [updateCountdowns_eq]
@[simp] theorem updateCountdowns_ready : (updateCountdowns s).ready = s.ready := by rw [updateCountdowns_eq]; rfl
@[simp] theorem updateCountdowns_divc : (updateCountdowns s).divc = s.divc := by rw [updateCountdowns_eq]
@[simp] theorem updateCountdowns_timaAcc : (updateCountdowns s).timaAcc = s.timaAcc := by rw [updateCountdowns_eq]
@[simp] theorem updateCountdowns_mem : (updateCountdowns s).mem = s.mem := by rw [updateCountdowns_eq]
@[simp] theorem updateCountdowns_irqIn : (updateCountdowns s).irqIn = s.irqIn := by rw [updateCountdowns_eq]
@[simp] theorem updateCountdowns_params : (updateCountdowns s).params = s.params := by rw [updateCountdowns_eq]
@[simp] theorem load8_updateCountdowns (a : Word) : load8 (updateCountdowns s) a = load8 s a := by
  rw [updateCountdowns_eq]; rfl

end Frame

/-- IME after the countdowns. -/
theorem updateCountdowns_ime (s : State) :
    (updateCountdowns s).ime = if s.eiCnt = .one then true else if s.diCnt = .one then false else s.ime := by
  simp only [updateCountdowns, countEnable_eq, countDisable_eq]

/-- `ei_cnt` after the countdowns. -/
theorem updateCountdowns_eiCnt (s : State) :
    (updateCountdowns s).eiCnt = match s.eiCnt with | .two => .one | .one => .idle | .idle => .idle := by
  simp only [updateCountdowns, countEnable_eq, countDisable_eq]

/-- `di_cnt` after the countdowns. -/
theorem updateCountdowns_diCnt (s : State) :
    (updateCountdowns s).diCnt = match s.diCnt with | .two => .one | .one => .idle | .idle => .idle := by
  simp only [updateCountdowns, countEnable_eq, countDisable_eq]

/-! ## Priority, the check, dispatch -/

/-- No line is chosen exactly where none is ready. -/
theorem lowestLine_eq_none (ready : Byte) : lowestLine ready = none ↔ ready = 0 := by
  constructor
  · intro h
    apply BitVec.eq_of_getLsbD_eq
    intro i hi
    have := List.find?_eq_none.1 h i (List.mem_range.2 hi)
    simpa using this
  · rintro rfl; decide

/-- The chosen line is ready. -/
theorem lowestLine_mem {ready : Byte} {n : Nat} (h : lowestLine ready = some n) : n < 8 ∧ ready.getLsbD n = true := by
  have h1 := List.mem_of_find?_eq_some h
  have h2 := List.find?_some h
  exact ⟨List.mem_range.1 h1, h2⟩

/-- Everything the interrupt check can do where it does not stop: nothing ready, a wake without dispatch, a dispatch. -/
theorem interruptCheck_cases {s t : State} {dispatched : Bool} (h : interruptCheck s = .ok (t, dispatched)) :
    (s.ready = 0 ∧ t = s ∧ dispatched = false) ∨
    (s.ready ≠ 0 ∧ s.ime = false ∧ t = { s with halted := false } ∧ dispatched = false) ∨
    (s.ready ≠ 0 ∧ s.ime = true ∧ dispatched = true ∧
      ∃ n, lowestLine s.ready = some n ∧ n < 5 ∧ dispatch { s with halted := false } n = .ok t) := by
  simp only [interruptCheck] at h
  cases hl : lowestLine s.ready with
  | none =>
    simp only [hl, Except.ok.injEq, Prod.mk.injEq] at h
    exact .inl ⟨(lowestLine_eq_none _).1 hl, h.1.symm, h.2.symm⟩
  | some n =>
    have hr : s.ready ≠ 0 := fun e => by rw [(lowestLine_eq_none _).2 e] at hl; simp at hl
    simp only [hl] at h
    cases hi : s.ime with
    | false =>
      simp only [hi, Bool.false_eq_true, if_false, pure, Except.pure, Except.ok.injEq, Prod.mk.injEq] at h
      exact .inr (.inl ⟨hr, rfl, h.1.symm, h.2.symm⟩)
    | true =>
      simp only [hi, if_true] at h
      split at h
      · rename_i hn
        simp only [bind_eq_ok, pure, Except.pure, Except.ok.injEq, Prod.mk.injEq] at h
        obtain ⟨u, h1, rfl, rfl⟩ := h
        exact .inr (.inr ⟨hr, rfl, rfl, n, rfl, hn, by simpa [hi] using h1⟩)
      · simp [throw, throwThe, MonadExceptOf.throw] at h

/-- A jump after a push of PC. -/
theorem pushPcAndJump_ok {s t : State} {target : Word} : pushPcAndJump s target = .ok t ↔
    ∃ m, push16 s s.pc = .ok m ∧ t = { m with pc := target } := by
  simp only [pushPcAndJump, bind_eq_ok, pure, Except.pure, Except.ok.injEq]
  exact ⟨fun ⟨m, h1, h2⟩ => ⟨m, h1, h2.symm⟩, fun ⟨m, h1, h2⟩ => ⟨m, h1, h2.symm⟩⟩

/-- Everything a dispatch does where it does not stop. -/
theorem dispatch_ok {s t : State} {n : Nat} : dispatch s n = .ok t ↔
    ∃ m, push16 { s with iflag := s.iflag &&& ~~~(1#8 <<< n), ime := false } s.pc = .ok m ∧
      t = { m with pc := vector n } := pushPcAndJump_ok

/-- A return is a pop into PC. -/
theorem returnFromStack_ok {s t : State} : returnFromStack s = .ok t ↔
    ∃ lo hi, load8 s s.sp = .ok lo ∧ load8 s (s.sp + 1) = .ok hi ∧
      t = { s with sp := s.sp + 2, pc := join hi lo } := by
  simp only [returnFromStack, bind_eq_ok, pure, Except.pure, Except.ok.injEq]
  constructor
  · rintro ⟨⟨v, u⟩, h1, h2⟩
    obtain ⟨lo, hi, a1, a2, rfl, rfl⟩ := pop16_ok.1 h1
    exact ⟨lo, hi, a1, a2, h2.symm⟩
  · rintro ⟨lo, hi, a1, a2, rfl⟩
    exact ⟨_, pop16_ok.2 ⟨lo, hi, a1, a2, rfl, rfl⟩, rfl⟩

/-! ## Inputs -/

/-- The merge of an input touches IF and the list of inputs only. -/
theorem mergeIrqIn_eq (s : State) :
    mergeIrqIn s = { s with iflag := (mergeIrqIn s).iflag, irqIn := s.irqIn.tail } := by
  unfold mergeIrqIn
  split <;> rename_i h <;> simp [h]
  rw [← h]

section Frame

variable (s : State)

@[simp] theorem mergeIrqIn_reg8 (r : Reg8) : (mergeIrqIn s).reg8 r = s.reg8 r := by
  rw [mergeIrqIn_eq]; cases r <;> rfl
@[simp] theorem mergeIrqIn_flags : (mergeIrqIn s).flags = s.flags := by rw [mergeIrqIn_eq]
@[simp] theorem mergeIrqIn_pc : (mergeIrqIn s).pc = s.pc := by rw [mergeIrqIn_eq]
@[simp] theorem mergeIrqIn_sp : (mergeIrqIn s).sp = s.sp := by rw [mergeIrqIn_eq]
@[simp] theorem mergeIrqIn_ime : (mergeIrqIn s).ime = s.ime := by rw [mergeIrqIn_eq]
@[simp] theorem mergeIrqIn_halted : (mergeIrqIn s).halted = s.halted := by rw [mergeIrqIn_eq]
@[simp] theorem mergeIrqIn_eiCnt : (mergeIrqIn s).eiCnt = s.eiCnt := by rw [mergeIrqIn_eq]
@[simp] theorem mergeIrqIn_diCnt : (mergeIrqIn s).diCnt = s.diCnt := by rw [mergeIrqIn_eq]
@[simp] theorem mergeIrqIn_ie : (mergeIrqIn s).ie = s.ie := by rw [mergeIrqIn_eq]
@[simp] theorem mergeIrqIn_divc : (mergeIrqIn s).divc = s.divc := by rw [mergeIrqIn_eq]
@[simp] theorem mergeIrqIn_timaAcc : (mergeIrqIn s).timaAcc = s.timaAcc := by rw [mergeIrqIn_eq]
@[simp] theorem mergeIrqIn_mem : (mergeIrqIn s).mem = s.mem := by rw [mergeIrqIn_eq]
@[simp] theorem mergeIrqIn_irqIn : (mergeIrqIn s).irqIn = s.irqIn.tail := by rw [mergeIrqIn_eq]
@[simp] theorem mergeIrqIn_params : (mergeIrqIn s).params = s.params := by rw [mergeIrqIn_eq]

end Frame

end Sys2Proof.Machine
end

