-- ==== Sys2Proof/Laws/Decode.lean ====
section
/-! SUPPORT. The laws of decoding: the template an instruction's opcode byte selects. -/

namespace Sys2Proof

/-! ## Templates -/

/-- The template, filled with exactly these operand bytes, is the instruction. -/
inductive Fills : Template → List Byte → Instr → Prop where
  | op (i : Instr) : Fills (.op i) [] i
  | opN (mk : Byte → Instr) (n : Byte) : Fills (.opN mk) [n] (mk n)
  | opE (mk : Byte → Instr) (e : Byte) : Fills (.opE mk) [e] (mk e)
  | opNn (mk : Word → Instr) (nn : Word) : Fills (.opNn mk) [loByte nn, hiByte nn] (mk nn)

/-- The opcode byte of an instruction selects the template that its operand bytes fill. -/
theorem opcode_selects (i : Instr) : ∃ template, decodeOpcode i.opcode = some template ∧ Fills template i.operands i := by
  cases i with
  | ld_bc_nn nn => exact ⟨.opNn (Instr.ldPairNn .bc), (rfl : decodeOpcode 0x01 = _), .opNn (Instr.ldPairNn .bc) nn⟩
  | ld_b_n n => exact ⟨.opN (Instr.ldRegN .b), (rfl : decodeOpcode 0x06 = _), .opN (Instr.ldRegN .b) n⟩
  | ld_c_n n => exact ⟨.opN (Instr.ldRegN .c), (rfl : decodeOpcode 0x0E = _), .opN (Instr.ldRegN .c) n⟩
  | ld_de_nn nn => exact ⟨.opNn (Instr.ldPairNn .de), (rfl : decodeOpcode 0x11 = _), .opNn (Instr.ldPairNn .de) nn⟩
  | ld_d_n n => exact ⟨.opN (Instr.ldRegN .d), (rfl : decodeOpcode 0x16 = _), .opN (Instr.ldRegN .d) n⟩
  | jr_e e => exact ⟨.opE Instr.jr_e, (rfl : decodeOpcode 0x18 = _), .opE Instr.jr_e e⟩
  | ld_e_n n => exact ⟨.opN (Instr.ldRegN .e), (rfl : decodeOpcode 0x1E = _), .opN (Instr.ldRegN .e) n⟩
  | jr_nz_e e => exact ⟨.opE (Instr.jrCond .nz), (rfl : decodeOpcode 0x20 = _), .opE (Instr.jrCond .nz) e⟩
  | ld_hl_nn nn => exact ⟨.opNn (Instr.ldPairNn .hl), (rfl : decodeOpcode 0x21 = _), .opNn (Instr.ldPairNn .hl) nn⟩
  | ld_h_n n => exact ⟨.opN (Instr.ldRegN .h), (rfl : decodeOpcode 0x26 = _), .opN (Instr.ldRegN .h) n⟩
  | jr_z_e e => exact ⟨.opE (Instr.jrCond .z), (rfl : decodeOpcode 0x28 = _), .opE (Instr.jrCond .z) e⟩
  | ld_l_n n => exact ⟨.opN (Instr.ldRegN .l), (rfl : decodeOpcode 0x2E = _), .opN (Instr.ldRegN .l) n⟩
  | jr_nc_e e => exact ⟨.opE (Instr.jrCond .nc), (rfl : decodeOpcode 0x30 = _), .opE (Instr.jrCond .nc) e⟩
  | ld_sp_nn nn => exact ⟨.opNn (Instr.ldPairNn .sp), (rfl : decodeOpcode 0x31 = _), .opNn (Instr.ldPairNn .sp) nn⟩
  | ld__hl__n n => exact ⟨.opN Instr.ld__hl__n, (rfl : decodeOpcode 0x36 = _), .opN Instr.ld__hl__n n⟩
  | jr_c_e e => exact ⟨.opE (Instr.jrCond .c), (rfl : decodeOpcode 0x38 = _), .opE (Instr.jrCond .c) e⟩
  | ld_a_n n => exact ⟨.opN (Instr.ldRegN .a), (rfl : decodeOpcode 0x3E = _), .opN (Instr.ldRegN .a) n⟩
  | jp_nn nn => exact ⟨.opNn Instr.jp_nn, (rfl : decodeOpcode 0xC3 = _), .opNn Instr.jp_nn nn⟩
  | add_a_n n => exact ⟨.opN Instr.add_a_n, (rfl : decodeOpcode 0xC6 = _), .opN Instr.add_a_n n⟩
  | call_nn nn => exact ⟨.opNn Instr.call_nn, (rfl : decodeOpcode 0xCD = _), .opNn Instr.call_nn nn⟩
  | sub_a_n n => exact ⟨.opN Instr.sub_a_n, (rfl : decodeOpcode 0xD6 = _), .opN Instr.sub_a_n n⟩
  | xor_a_n n => exact ⟨.opN Instr.xor_a_n, (rfl : decodeOpcode 0xEE = _), .opN Instr.xor_a_n n⟩
  | cp_a_n n => exact ⟨.opN Instr.cp_a_n, (rfl : decodeOpcode 0xFE = _), .opN Instr.cp_a_n n⟩
  | _ => exact ⟨.op _, rfl, .op _⟩

/-- A filled template decodes to its instruction. -/
theorem decode_of_fills {opcode : Byte} {template : Template} {operands : List Byte} {i : Instr}
    (h : decodeOpcode opcode = some template) (hf : Fills template operands i) (rest : List Byte) :
    decode (opcode :: operands ++ rest) = .ok (i, rest) := by
  cases hf <;> simp [decode, h]

namespace Machine

/-- Where the bytes at PC fill the template the opcode byte selects, the fetch gives the instruction, with PC past it. -/
theorem fetchInstr_of_fills {s : State} {opcode : Byte} {template : Template} {operands : List Byte} {i : Instr}
    (h : decodeOpcode opcode = some template) (hf : Fills template operands i)
    (hb : BytesAt s s.pc (opcode :: operands)) :
    fetchInstr s = .ok (i, { s with pc := s.pc + 1 + BitVec.ofNat 16 operands.length }) := by
  have h1 := fetch8_ok hb.1
  cases hf with
  | op i =>
    simp only [fetchInstr, h1, ok_bind, h, pure, Except.pure, List.length_nil, BitVec.add_zero]
  | opN mk n =>
    have h2 : fetch8 { s with pc := s.pc + 1 } = .ok (n, { s with pc := s.pc + 1 + 1 }) := fetch8_ok hb.2.1
    simp only [fetchInstr, h1, ok_bind, h, h2, pure, Except.pure]
    rfl
  | opE mk n =>
    have h2 : fetch8 { s with pc := s.pc + 1 } = .ok (n, { s with pc := s.pc + 1 + 1 }) := fetch8_ok hb.2.1
    simp only [fetchInstr, h1, ok_bind, h, h2, pure, Except.pure]
    rfl
  | opNn mk nn =>
    have h2 : fetch8 { s with pc := s.pc + 1 } = .ok (loByte nn, { s with pc := s.pc + 1 + 1 }) := fetch8_ok hb.2.1
    have h3 : fetch8 { s with pc := s.pc + 1 + 1 } = .ok (hiByte nn, { s with pc := s.pc + 1 + 1 + 1 }) :=
      fetch8_ok hb.2.2.1
    simp only [fetchInstr, fetch16, h1, ok_bind, h, h2, h3, pure, Except.pure, Machine.join_hiByte_loByte]
    rw [BitVec.add_assoc (s.pc + 1) 1 1]
    rfl

/-- An opcode byte the decoder does not know stops the fetch (R241). -/
theorem fetchInstr_unknown {s : State} {opcode : Byte} (hl : load8 s s.pc = .ok opcode) (h : decodeOpcode opcode = none) :
    fetchInstr s = .error (.unknownOpcode opcode s.pc) := by
  simp only [fetchInstr, fetch8_ok hl, ok_bind, h]; rfl

/-- A fault of the opcode byte's load stops the fetch (R247). -/
theorem fetchInstr_error {s : State} {f : Fault} (h : load8 s s.pc = .error f) : fetchInstr s = .error f := by
  simp [fetchInstr, fetch8_error h]

end Machine

end Sys2Proof
end

