-- ==== Sys2Proof/Laws/Exec.lean ====
section
/-! SUPPORT. Everything an instruction can do, said once: every meaning that answers a next state is one of the changes below.
Facts about all instructions are proved from this list, not by unfolding 145 meanings again. -/

namespace Sys2Proof.Machine

/-- The ways an instruction changes the state. -/
inductive Change (s : State) : State → Prop where
  /-- a load of a register or a pair: general registers only -/
  | reg (r : Reg8) (v : Byte) : Change s (s.setReg8 r v)
  | pair (p : Pair) (v : Word) : Change s (s.setPair p v)
  | sp (v : Word) : Change s { s with sp := v }
  /-- an ALU operation: A and the flags -/
  | alu (a : Byte) (flags : Flags) : Change s { s with a := a, flags := flags }
  /-- a store of one byte -/
  | store (address : Word) (v : Byte) (t : State) (h : store8 s address v = .ok t) : Change s t
  /-- a push -/
  | push (v : Word) (t : State) (h : push16 s v = .ok t) : Change s t
  /-- a push of PC and a jump -/
  | call (target : Word) (m : State) (h : push16 s s.pc = .ok m) : Change s { m with pc := target }
  /-- a return -/
  | ret (lo hi : Byte) : Change s { s with sp := s.sp + 2, pc := join hi lo }
  /-- a jump, or a condition that does not hold -/
  | jump (target : Word) : Change s { s with pc := target }
  | disable : Change s { s with diCnt := .two }
  | enable : Change s { s with eiCnt := .two }
  | halt : Change s { s with halted := true }

theorem Change.none (s : State) : Change s s := Change.jump s.pc

theorem fault_ne_next (f : Fault) (t : State) : (.fault f : Host.Outcome State Fault Refusal) ≠ .next t := by simp

section Shared

variable {s t : State}

theorem loadRegReg_change {dst r : Reg8} (h : loadRegReg dst r s = .next t) : Change s t := by
  simp only [loadRegReg, Host.Outcome.next.injEq] at h
  exact h ▸ .reg dst _

theorem loadRegMem_change {dst : Reg8} {a : Word} (h : loadRegMem dst a s = .next t) : Change s t := by
  simp only [loadRegMem, finish_eq_next, bind_eq_ok, pure, Except.pure, Except.ok.injEq] at h
  obtain ⟨v, -, rfl⟩ := h
  exact .reg dst v

theorem storeMem_change {a : Word} {v : Byte} (h : storeMem a v s = .next t) : Change s t :=
  .store a v t ((finish_eq_next _ _).1 h)

theorem loadRegImm_change {dst : Reg8} {n : Byte} (h : loadRegImm dst n s = .next t) : Change s t := by
  simp only [loadRegImm, Host.Outcome.next.injEq] at h
  exact h ▸ .reg dst n

theorem loadPairImm_change {p : Pair} {nn : Word} (h : loadPairImm p nn s = .next t) : Change s t := by
  simp only [loadPairImm, Host.Outcome.next.injEq] at h
  exact h ▸ .pair p nn

theorem addA_change (v : Byte) : Change s (addA v s) := .alu _ _

theorem subA_change (v : Byte) : Change s (subA v s) := .alu _ _

theorem cpA_change (v : Byte) : Change s (cpA v s) := .alu s.a _

theorem xorA_change (v : Byte) : Change s (xorA v s) := .alu _ _

theorem withByteAtHl_change {f : Byte → State → State} (hf : ∀ v, Change s (f v s)) (h : withByteAtHl f s = .next t) :
    Change s t := by
  simp only [withByteAtHl, finish_eq_next, bind_eq_ok, pure, Except.pure, Except.ok.injEq] at h
  obtain ⟨v, -, rfl⟩ := h
  exact hf v

theorem pushPairOp_change {p : PushPair} (h : pushPairOp p s = .next t) : Change s t :=
  .push _ t ((finish_eq_next _ _).1 h)

theorem call_change {target : Word} (h : finish (pushPcAndJump s target) = .next t) : Change s t := by
  obtain ⟨m, hm, rfl⟩ := pushPcAndJump_ok.1 ((finish_eq_next _ _).1 h)
  exact .call target m hm

theorem ret_change (h : finish (returnFromStack s) = .next t) : Change s t := by
  obtain ⟨lo, hi, -, -, rfl⟩ := returnFromStack_ok.1 ((finish_eq_next _ _).1 h)
  exact .ret lo hi

theorem retIf_change {cc : Cond} (h : retIf cc s = .next t) : Change s t := by
  simp only [retIf] at h
  split at h
  · exact ret_change h
  · simp only [Host.Outcome.next.injEq] at h
    exact h ▸ .none s

theorem jrIf_change {cc : Cond} {e : Byte} (h : jrIf cc e s = .next t) : Change s t := by
  simp only [jrIf] at h
  split at h <;> simp only [Host.Outcome.next.injEq] at h
  · exact h ▸ .jump _
  · exact h ▸ .none s

theorem next_change {u : State} (hu : Change s u) (h : (Host.Outcome.next u : Host.Outcome State Fault Refusal) = .next t) :
    Change s t := by
  cases h; exact hu

end Shared

/-- Every instruction that answers a next state makes one of the changes of the list. -/
theorem exec_change {i : Instr} {s t : State} (h : exec i s = .next t) : Change s t := by
  cases i <;> first
    | exact loadRegReg_change h
    | exact loadRegMem_change h
    | exact storeMem_change h
    | exact loadRegImm_change h
    | exact loadPairImm_change h
    | exact next_change (addA_change _) h
    | exact next_change (subA_change _) h
    | exact next_change (cpA_change _) h
    | exact next_change (xorA_change _) h
    | exact withByteAtHl_change addA_change h
    | exact withByteAtHl_change subA_change h
    | exact withByteAtHl_change cpA_change h
    | exact withByteAtHl_change xorA_change h
    | exact pushPairOp_change h
    | exact call_change h
    | exact ret_change h
    | exact retIf_change h
    | exact jrIf_change h
    | exact next_change (.jump _) h
    | exact next_change (.sp _) h
    | exact next_change .disable h
    | exact next_change .enable h
    | exact next_change .halt h
    | exact absurd h (fault_ne_next _ _)

/-- No instruction is refused. -/
theorem exec_not_refused (i : Instr) (s : State) (r : Refusal) : exec i s ≠ .refused r := by
  have hf : ∀ x : Except Fault State, finish x ≠ .refused r := fun x => by cases x <;> simp [finish]
  have hn : ∀ u : State, (.next u : Host.Outcome State Fault Refusal) ≠ .refused r := fun u => by simp
  have hr : ∀ cc, retIf cc s ≠ .refused r := fun cc => by unfold retIf; split <;> [exact hf _; exact hn _]
  have hj : ∀ cc e, jrIf cc e s ≠ .refused r := fun cc e => by unfold jrIf; split <;> exact hn _
  have hx : (.fault .unsupportedPrefix : Host.Outcome State Fault Refusal) ≠ .refused r := by simp
  cases i <;> first
    | exact hf _
    | exact hn _
    | exact hr _
    | exact hj _ _
    | exact hx

/-! ## What follows for every instruction -/

/-- What no change touches. -/
theorem Change.frame {s t : State} (h : Change s t) :
    t.ime = s.ime ∧ t.timaAcc = s.timaAcc ∧ t.irqIn = s.irqIn ∧ t.params = s.params := by
  cases h with
  | reg r v => simp
  | pair p v => simp
  | store a v _ h => have := store8_frame h; tauto
  | push v _ h => have := push16_frame h; tauto
  | call target m h => have := push16_frame h; tauto
  | _ => exact ⟨rfl, rfl, rfl, rfl⟩

/-- A store keeps the invariant of memory. -/
theorem store8_mem {s t : State} {a : Word} {v : Byte} (h : store8 s a v = .ok t) (hw : Memory.wf s.mem)
    (hk : ∀ cell ∈ s.mem, ramKey cell.1) : Memory.wf t.mem ∧ ∀ cell ∈ t.mem, ramKey cell.1 := by
  rcases store8_cases h with ⟨-, hr, rfl⟩ | ⟨-, r, -, rfl⟩ | ⟨-, -, rfl⟩ | ⟨-, rfl⟩
  · refine ⟨Memory.set_wf _ _ _ hw, fun cell hc => ?_⟩
    rcases Memory.mem_set _ _ _ _ hc with rfl | hin
    · exact hr
    · exact hk cell hin
  · rw [writeIo_mem]; exact ⟨hw, hk⟩
  · exact ⟨hw, hk⟩
  · exact ⟨hw, hk⟩

theorem push16_mem {s t : State} {v : Word} (h : push16 s v = .ok t) (hw : Memory.wf s.mem)
    (hk : ∀ cell ∈ s.mem, ramKey cell.1) : Memory.wf t.mem ∧ ∀ cell ∈ t.mem, ramKey cell.1 := by
  obtain ⟨m, h1, h2⟩ := push16_ok.1 h
  have hm := store8_mem h1 hw hk
  exact store8_mem h2 hm.1 hm.2

theorem Change.mem {s t : State} (h : Change s t) (hw : Memory.wf s.mem) (hk : ∀ cell ∈ s.mem, ramKey cell.1) :
    Memory.wf t.mem ∧ ∀ cell ∈ t.mem, ramKey cell.1 := by
  cases h with
  | reg r v => rw [setReg8_mem]; exact ⟨hw, hk⟩
  | pair p v => rw [setPair_mem]; exact ⟨hw, hk⟩
  | store a v _ h => exact store8_mem h hw hk
  | push v _ h => exact push16_mem h hw hk
  | call target m h => have hm := push16_mem h hw hk; exact hm
  | _ => exact ⟨hw, hk⟩

end Sys2Proof.Machine
end

