-- ==== Sys2Proof/Laws/Timer.lean ====
section
/-! SUPPORT. The laws of the timer: the quotient form of the counter is the loop of spec/60_exceptions.md R263, and what an
advance leaves alone. -/

namespace Sys2Proof.Machine

theorem period_pos (tac : Byte) : 0 < period tac := by
  simp only [period]; split <;> norm_num

theorem period_le (tac : Byte) : period tac ≤ 1024 := by
  simp only [period]; split <;> norm_num

/-- The counter's value after some ticks does not depend on the line; the line is raised if it was or a tick raised it. -/
theorem ticks_line (tma : Byte) (n : Nat) (v : Byte) (line : Bool) :
    ticks tma n (v, line) = ((ticks tma n (v, false)).1, line || (ticks tma n (v, false)).2) := by
  induction n generalizing v line with
  | zero => simp [ticks]
  | succ n ih =>
    simp only [ticks, tick]
    split
    · rw [ih tma true]; simp
    · exact ih (v + 1) line

/-- The loop of R263 with a bound on its turns: it stops where less than a period is left. -/
def counterLoop (p : Nat) (tma : Byte) (turns acc : Nat) (counter : Byte × Bool) : Nat × Byte × Bool :=
  match turns with
  | 0 => (acc, counter)
  | n + 1 => if p ≤ acc then counterLoop p tma n (acc - p) (tick tma counter) else (acc, counter)

/-- The quotient form makes the loop's ticks and leaves its remainder (log 16). -/
theorem counterLoop_eq_ticks (p : Nat) (hp : 0 < p) (tma : Byte) (turns acc : Nat) (h : acc / p ≤ turns)
    (counter : Byte × Bool) : counterLoop p tma turns acc counter = (acc % p, ticks tma (acc / p) counter) := by
  induction turns generalizing acc counter with
  | zero =>
    have hlt : acc < p := by
      by_contra hge
      exact absurd (Nat.div_pos (Nat.le_of_not_lt hge) hp) (by omega)
    simp [counterLoop, Nat.div_eq_of_lt hlt, Nat.mod_eq_of_lt hlt, ticks]
  | succ n ih =>
    simp only [counterLoop]
    split
    · rename_i hle
      have hdiv : acc / p = (acc - p) / p + 1 := Nat.div_eq_sub_div hp hle
      rw [ih (acc - p) (by omega), hdiv, ticks, Nat.mod_eq_sub_mod hle]
    · rename_i hlt
      have hlt : acc < p := Nat.lt_of_not_le hlt
      simp [Nat.div_eq_of_lt hlt, Nat.mod_eq_of_lt hlt, ticks]

/-- The counter touches its value and its accumulator only. -/
theorem advanceCounter_eq (c : Nat) (s : State) : (advanceCounter c s).1 =
    { s with tima := (advanceCounter c s).1.tima, timaAcc := (advanceCounter c s).1.timaAcc } := by
  simp only [advanceCounter]
  cases counterEnabled s.tac <;> rfl

/-- What an advance of the timer is, field by field. -/
theorem timerAdvance_eq (c : Nat) (s : State) :
    timerAdvance c s = { s with
      divc := s.divc + BitVec.ofNat 16 c
      tima := (timerAdvance c s).tima
      timaAcc := (timerAdvance c s).timaAcc
      iflag := (timerAdvance c s).iflag } := by
  have h := advanceCounter_eq c (advanceDivider c s)
  simp only [timerAdvance]
  cases hr : (advanceCounter c (advanceDivider c s)).2
  · simp only [Bool.false_eq_true, if_false]
    conv_lhs => rw [h]
    conv_rhs => rw [h]
    rfl
  · simp only [if_true]
    conv_lhs => rw [h]
    conv_rhs => rw [h]
    rfl

/-- The accumulator stays below the longest period. -/
theorem timerAdvance_timaAcc_lt (c : Nat) (s : State) (h : s.timaAcc < 1024) : (timerAdvance c s).timaAcc < 1024 := by
  have hacc : (timerAdvance c s).timaAcc = (advanceCounter c (advanceDivider c s)).1.timaAcc := by
    simp only [timerAdvance]; split <;> rfl
  rw [hacc]
  simp only [advanceCounter]
  split
  · exact lt_of_lt_of_le (Nat.mod_lt _ (period_pos _)) (period_le _)
  · exact h

section Frame

variable (c : Nat) (s : State)

@[simp] theorem timerAdvance_a : (timerAdvance c s).a = s.a := by rw [timerAdvance_eq]
@[simp] theorem timerAdvance_b : (timerAdvance c s).b = s.b := by rw [timerAdvance_eq]
@[simp] theorem timerAdvance_c : (timerAdvance c s).c = s.c := by rw [timerAdvance_eq]
@[simp] theorem timerAdvance_d : (timerAdvance c s).d = s.d := by rw [timerAdvance_eq]
@[simp] theorem timerAdvance_e : (timerAdvance c s).e = s.e := by rw [timerAdvance_eq]
@[simp] theorem timerAdvance_h : (timerAdvance c s).h = s.h := by rw [timerAdvance_eq]
@[simp] theorem timerAdvance_l : (timerAdvance c s).l = s.l := by rw [timerAdvance_eq]
@[simp] theorem timerAdvance_flags : (timerAdvance c s).flags = s.flags := by rw [timerAdvance_eq]
@[simp] theorem timerAdvance_pc : (timerAdvance c s).pc = s.pc := by rw [timerAdvance_eq]
@[simp] theorem timerAdvance_sp : (timerAdvance c s).sp = s.sp := by rw [timerAdvance_eq]
@[simp] theorem timerAdvance_ime : (timerAdvance c s).ime = s.ime := by rw [timerAdvance_eq]
@[simp] theorem timerAdvance_halted : (timerAdvance c s).halted = s.halted := by rw [timerAdvance_eq]
@[simp] theorem timerAdvance_eiCnt : (timerAdvance c s).eiCnt = s.eiCnt := by rw [timerAdvance_eq]
@[simp] theorem timerAdvance_diCnt : (timerAdvance c s).diCnt = s.diCnt := by rw [timerAdvance_eq]
@[simp] theorem timerAdvance_ie : (timerAdvance c s).ie = s.ie := by rw [timerAdvance_eq]
@[simp] theorem timerAdvance_divc : (timerAdvance c s).divc = s.divc + BitVec.ofNat 16 c := by rw [timerAdvance_eq]
@[simp] theorem timerAdvance_tma : (timerAdvance c s).tma = s.tma := by rw [timerAdvance_eq]
@[simp] theorem timerAdvance_tac : (timerAdvance c s).tac = s.tac := by rw [timerAdvance_eq]
@[simp] theorem timerAdvance_sb : (timerAdvance c s).sb = s.sb := by rw [timerAdvance_eq]
@[simp] theorem timerAdvance_sc : (timerAdvance c s).sc = s.sc := by rw [timerAdvance_eq]
@[simp] theorem timerAdvance_mem : (timerAdvance c s).mem = s.mem := by rw [timerAdvance_eq]
@[simp] theorem timerAdvance_irqIn : (timerAdvance c s).irqIn = s.irqIn := by rw [timerAdvance_eq]
@[simp] theorem timerAdvance_params : (timerAdvance c s).params = s.params := by rw [timerAdvance_eq]

end Frame

end Sys2Proof.Machine
end

