-- ==== Sys2Proof/Laws/Inputs.lean ====
section
/-! SUPPORT. Nothing within a machine step reads the inputs but the merge at its end, and that reads the first alone. So a
step commutes with a change of the list, operation by operation: this is why the inputs can be an argument of
`CoreState.step` and need no place in the machine (spec/10_state.md R36). -/

namespace Sys2Proof.Machine

/-- The state with another list of inputs beside the machine. -/
def State.withIrqIn (s : State) (x : List IrqIn) : State := { s with irqIn := x }

/-- A function applied to the next state, where there is one. -/
def mapNext (f : State → State) (r : Host.Outcome State Fault Refusal) : Host.Outcome State Fault Refusal :=
  match r with
  | .next s => .next (f s)
  | .fault e => .fault e
  | .refused e => .refused e

section Shared

variable (s : State) (x : List IrqIn)

@[simp] theorem load8_withIrqIn (a : Word) : load8 (s.withIrqIn x) a = load8 s a := rfl

theorem store8_withIrqIn (a : Word) (v : Byte) :
    store8 (s.withIrqIn x) a v = (store8 s a v).map (·.withIrqIn x) := by
  simp only [store8]
  cases window a <;> try rfl
  cases ioRegister a with
  | none => rfl
  | some r => cases r <;> rfl

theorem finish_map (f : State → State) (r : Except Fault State) : finish (r.map f) = mapNext f (finish r) := by
  cases r <;> rfl

theorem push16_withIrqIn (v : Word) : push16 (s.withIrqIn x) v = (push16 s v).map (·.withIrqIn x) := by
  have h : ({ s.withIrqIn x with sp := s.sp - 2 } : State) = ({ s with sp := s.sp - 2 } : State).withIrqIn x := rfl
  simp only [push16, store16]
  rw [show (s.withIrqIn x).sp = s.sp from rfl, h, store8_withIrqIn]
  cases store8 { s with sp := s.sp - 2 } (s.sp - 2) (loByte v) with
  | error f => rfl
  | ok m => exact store8_withIrqIn m x _ _

theorem pushPcAndJump_withIrqIn (target : Word) :
    pushPcAndJump (s.withIrqIn x) target = (pushPcAndJump s target).map (·.withIrqIn x) := by
  simp only [pushPcAndJump]
  rw [show (s.withIrqIn x).pc = s.pc from rfl, push16_withIrqIn]
  cases push16 s s.pc <;> rfl

theorem returnFromStack_withIrqIn :
    returnFromStack (s.withIrqIn x) = (returnFromStack s).map (·.withIrqIn x) := by
  simp only [returnFromStack, pop16, load16, load8_withIrqIn]
  rw [show (s.withIrqIn x).sp = s.sp from rfl]
  cases load8 s s.sp <;> try rfl
  cases load8 s (s.sp + 1) <;> rfl

theorem loadRegMem_withIrqIn (dst : Reg8) (a : Word) :
    loadRegMem dst a (s.withIrqIn x) = mapNext (·.withIrqIn x) (loadRegMem dst a s) := by
  simp only [loadRegMem, load8_withIrqIn]
  cases load8 s a <;> try rfl
  cases dst <;> rfl

theorem storeMem_withIrqIn (a : Word) (v : Byte) :
    storeMem a v (s.withIrqIn x) = mapNext (·.withIrqIn x) (storeMem a v s) := by
  rw [storeMem, store8_withIrqIn, finish_map]; rfl

theorem withByteAtHl_withIrqIn (f : Byte → State → State) (hf : ∀ v, f v (s.withIrqIn x) = (f v s).withIrqIn x) :
    withByteAtHl f (s.withIrqIn x) = mapNext (·.withIrqIn x) (withByteAtHl f s) := by
  simp only [withByteAtHl, load8_withIrqIn]
  rw [show (s.withIrqIn x).hl = s.hl from rfl]
  cases load8 s s.hl with
  | error e => rfl
  | ok v => exact congrArg Host.Outcome.next (hf v)

theorem pushPairOp_withIrqIn (p : PushPair) :
    pushPairOp p (s.withIrqIn x) = mapNext (·.withIrqIn x) (pushPairOp p s) := by
  rw [pushPairOp, push16_withIrqIn, finish_map]; cases p <;> rfl

theorem call_withIrqIn (target : Word) : finish (pushPcAndJump (s.withIrqIn x) target) =
    mapNext (·.withIrqIn x) (finish (pushPcAndJump s target)) := by
  rw [pushPcAndJump_withIrqIn, finish_map]

theorem ret_withIrqIn :
    finish (returnFromStack (s.withIrqIn x)) = mapNext (·.withIrqIn x) (finish (returnFromStack s)) := by
  rw [returnFromStack_withIrqIn, finish_map]

theorem retIf_withIrqIn (cc : Cond) : retIf cc (s.withIrqIn x) = mapNext (·.withIrqIn x) (retIf cc s) := by
  simp only [retIf]
  rw [show (s.withIrqIn x).cond cc = s.cond cc by cases cc <;> rfl]
  split
  · exact ret_withIrqIn s x
  · rfl

theorem jrIf_withIrqIn (cc : Cond) (e : Byte) : jrIf cc e (s.withIrqIn x) = mapNext (·.withIrqIn x) (jrIf cc e s) := by
  simp only [jrIf]
  rw [show (s.withIrqIn x).cond cc = s.cond cc by cases cc <;> rfl]
  split <;> rfl

/-- No instruction reads the inputs, and none writes them. -/
theorem exec_withIrqIn (i : Instr) : exec i (s.withIrqIn x) = mapNext (·.withIrqIn x) (exec i s) := by
  cases i <;> first
    | exact loadRegMem_withIrqIn s x _ _
    | exact storeMem_withIrqIn s x _ _
    | exact withByteAtHl_withIrqIn s x _ fun _ => rfl
    | exact pushPairOp_withIrqIn s x _
    | exact call_withIrqIn s x _
    | exact ret_withIrqIn s x
    | exact retIf_withIrqIn s x _
    | exact jrIf_withIrqIn s x _ _
    | rfl

/-! ## The parts of a step -/

theorem fetch8_withIrqIn : fetch8 (s.withIrqIn x) = (fetch8 s).map fun r => (r.1, r.2.withIrqIn x) := by
  simp only [fetch8, load8_withIrqIn]
  rw [show (s.withIrqIn x).pc = s.pc from rfl]
  cases load8 s s.pc <;> rfl

theorem fetch16_withIrqIn : fetch16 (s.withIrqIn x) = (fetch16 s).map fun r => (r.1, r.2.withIrqIn x) := by
  simp only [fetch16]
  rw [fetch8_withIrqIn]
  cases fetch8 s with
  | error f => rfl
  | ok r =>
    show (fetch8 (r.2.withIrqIn x) >>= _) = _
    rw [fetch8_withIrqIn]
    cases h : fetch8 r.2 <;> simp [Except.map, h, pure, Except.pure]

theorem fetchInstr_withIrqIn : fetchInstr (s.withIrqIn x) = (fetchInstr s).map fun r => (r.1, r.2.withIrqIn x) := by
  simp only [fetchInstr]
  rw [fetch8_withIrqIn]
  cases fetch8 s with
  | error f => rfl
  | ok r =>
    simp only [Except.map, ok_bind]
    split
    · rfl
    · rfl
    · rw [fetch8_withIrqIn]; cases fetch8 r.2 <;> rfl
    · rw [fetch8_withIrqIn]; cases fetch8 r.2 <;> rfl
    · rw [fetch16_withIrqIn]; cases fetch16 r.2 <;> rfl

theorem updateCountdowns_withIrqIn : updateCountdowns (s.withIrqIn x) = (updateCountdowns s).withIrqIn x := by
  simp only [updateCountdowns, countEnable_eq, countDisable_eq]; rfl

theorem interruptCheck_withIrqIn :
    interruptCheck (s.withIrqIn x) = (interruptCheck s).map fun r => (r.1.withIrqIn x, r.2) := by
  simp only [interruptCheck]
  rw [show (s.withIrqIn x).ready = s.ready from rfl]
  cases lowestLine s.ready with
  | none => rfl
  | some n =>
    show (if s.ime = true then _ else _) = Except.map _ (if s.ime = true then _ else _)
    split
    · split
      · have h : dispatch ({ s.withIrqIn x with halted := false } : State) n =
            (dispatch { s with halted := false } n).map (·.withIrqIn x) :=
          pushPcAndJump_withIrqIn { s with halted := false, iflag := s.iflag &&& ~~~(1#8 <<< n), ime := false } x (vector n)
        rw [h]
        cases dispatch { s with halted := false } n <;> rfl
      · rfl
    · rfl

theorem timerAdvance_withIrqIn (c : Nat) : timerAdvance c (s.withIrqIn x) = (timerAdvance c s).withIrqIn x := by
  have h : advanceCounter c (advanceDivider c (s.withIrqIn x)) =
      ((advanceCounter c (advanceDivider c s)).1.withIrqIn x, (advanceCounter c (advanceDivider c s)).2) := by
    show (if counterEnabled s.tac then _ else _) = _
    unfold advanceCounter
    rw [show (advanceDivider c s).tac = s.tac from rfl]
    split <;> rfl
  simp only [timerAdvance, h]
  split <;> rfl

/-- The merge reads the first of the inputs alone. -/
theorem mergeIrqIn_withIrqIn :
    mergeIrqIn (s.withIrqIn x) = (mergeIrqIn (s.withIrqIn [x.headD IrqIn.none])).withIrqIn x.tail := by
  cases x with
  | nil =>
    have h : s.iflag ||| IrqIn.none.mask = s.iflag := by
      rw [show IrqIn.none.mask = 0 by decide]; simp
    show s.withIrqIn [] = { s with iflag := s.iflag ||| IrqIn.none.mask, irqIn := [] }
    rw [h]; rfl
  | cons i rest => rfl

theorem endStep_withIrqIn (c : Nat) :
    endStep c (s.withIrqIn x) = (endStep c (s.withIrqIn [x.headD IrqIn.none])).withIrqIn x.tail := by
  simp only [endStep, timerAdvance_withIrqIn]
  exact mergeIrqIn_withIrqIn _ x

end Shared

/-- The end of an instruction, likewise. -/
theorem runInstr_withIrqIn (s : State) (x : List IrqIn) :
    runInstr (s.withIrqIn x) = mapNext (·.withIrqIn x.tail) (runInstr (s.withIrqIn [x.headD IrqIn.none])) := by
  simp only [runInstr, fetchInstr_withIrqIn]
  cases fetchInstr s with
  | error f => rfl
  | ok r =>
    obtain ⟨i, u⟩ := r
    simp only [Except.map, exec_withIrqIn]
    cases exec i u with
    | next w => exact congrArg Host.Outcome.next (endStep_withIrqIn w x _)
    | fault f => rfl
    | refused r => rfl

/-- A machine step reads the first of the inputs alone, and what it leaves of them is the rest. -/
theorem machineStep_withIrqIn (s : State) (x : List IrqIn) :
    machineStep (s.withIrqIn x) = mapNext (·.withIrqIn x.tail) (machineStep (s.withIrqIn [x.headD IrqIn.none])) := by
  simp only [machineStep, updateCountdowns_withIrqIn, interruptCheck_withIrqIn]
  cases interruptCheck (updateCountdowns s) with
  | error f => rfl
  | ok r =>
    obtain ⟨u, dispatched⟩ := r
    simp only [Except.map]
    cases dispatched with
    | true => exact congrArg Host.Outcome.next (endStep_withIrqIn u x _)
    | false =>
      simp only [Bool.false_eq_true, if_false]
      show (if u.halted = true then _ else _) = mapNext _ (if u.halted = true then _ else _)
      split
      · exact congrArg Host.Outcome.next (endStep_withIrqIn u x _)
      · exact runInstr_withIrqIn u x

/-- A machine step from any state is the step from the same machine with its next input alone, and the rest of the inputs
left. -/
theorem machineStep_inputs (s : State) :
    machineStep s = mapNext (·.withIrqIn s.irqIn.tail) (machineStep { s with irqIn := [s.input] }) :=
  machineStep_withIrqIn s s.irqIn

end Sys2Proof.Machine
end

