-- ==== Sys2Proof/Laws/PerInstr.lean ====
section
/-! SUPPORT. Statements for all instructions, made one instruction at a time. -/

namespace Sys2Proof.Laws

namespace EncodedLength

/-- The bytes of an instruction, by the format its opcode byte selects (spec/30_encoding.md R100). -/
def formatLength (opcode : Byte) : Nat :=
  match decodeOpcode opcode with
  | none => 0
  | some (.op _) => 1
  | some (.opN _) | some (.opE _) => 2
  | some (.opNn _) => 3

/-- R100: an instruction's encoding is as long as the format of its opcode byte says, and its opcode byte is one the decoder
knows. -/
def Statement (i : Instr) : Prop := (encode i).length = formatLength i.opcode

/-- From the opcode byte and the number of bytes. -/
theorem of_opcode {i : Instr} (opcode : Byte) (n : Nat) (h : i.opcode = opcode) (hn : (encode i).length = n)
    (hf : formatLength opcode = n) : Statement i := by
  rw [Statement, hn, h, hf]

theorem ld_bc_nn (nn : Word) : Statement (.ld_bc_nn nn) := of_opcode 0x01 3 rfl rfl (by decide)
theorem ld__bc__a : Statement .ld__bc__a := of_opcode 0x02 1 rfl rfl (by decide)
theorem ld_b_n (n : Byte) : Statement (.ld_b_n n) := of_opcode 0x06 2 rfl rfl (by decide)
theorem ld_a__bc : Statement .ld_a__bc := of_opcode 0x0A 1 rfl rfl (by decide)
theorem ld_c_n (n : Byte) : Statement (.ld_c_n n) := of_opcode 0x0E 2 rfl rfl (by decide)
theorem ld_de_nn (nn : Word) : Statement (.ld_de_nn nn) := of_opcode 0x11 3 rfl rfl (by decide)
theorem ld__de__a : Statement .ld__de__a := of_opcode 0x12 1 rfl rfl (by decide)
theorem ld_d_n (n : Byte) : Statement (.ld_d_n n) := of_opcode 0x16 2 rfl rfl (by decide)
theorem jr_e (e : Byte) : Statement (.jr_e e) := of_opcode 0x18 2 rfl rfl (by decide)
theorem ld_a__de : Statement .ld_a__de := of_opcode 0x1A 1 rfl rfl (by decide)
theorem ld_e_n (n : Byte) : Statement (.ld_e_n n) := of_opcode 0x1E 2 rfl rfl (by decide)
theorem jr_nz_e (e : Byte) : Statement (.jr_nz_e e) := of_opcode 0x20 2 rfl rfl (by decide)
theorem ld_hl_nn (nn : Word) : Statement (.ld_hl_nn nn) := of_opcode 0x21 3 rfl rfl (by decide)
theorem ld_h_n (n : Byte) : Statement (.ld_h_n n) := of_opcode 0x26 2 rfl rfl (by decide)
theorem jr_z_e (e : Byte) : Statement (.jr_z_e e) := of_opcode 0x28 2 rfl rfl (by decide)
theorem ld_l_n (n : Byte) : Statement (.ld_l_n n) := of_opcode 0x2E 2 rfl rfl (by decide)
theorem jr_nc_e (e : Byte) : Statement (.jr_nc_e e) := of_opcode 0x30 2 rfl rfl (by decide)
theorem ld_sp_nn (nn : Word) : Statement (.ld_sp_nn nn) := of_opcode 0x31 3 rfl rfl (by decide)
theorem ld__hl__n (n : Byte) : Statement (.ld__hl__n n) := of_opcode 0x36 2 rfl rfl (by decide)
theorem jr_c_e (e : Byte) : Statement (.jr_c_e e) := of_opcode 0x38 2 rfl rfl (by decide)
theorem ld_a_n (n : Byte) : Statement (.ld_a_n n) := of_opcode 0x3E 2 rfl rfl (by decide)
theorem ld_b_b : Statement .ld_b_b := of_opcode 0x40 1 rfl rfl (by decide)
theorem ld_b_c : Statement .ld_b_c := of_opcode 0x41 1 rfl rfl (by decide)
theorem ld_b_d : Statement .ld_b_d := of_opcode 0x42 1 rfl rfl (by decide)
theorem ld_b_e : Statement .ld_b_e := of_opcode 0x43 1 rfl rfl (by decide)
theorem ld_b_h : Statement .ld_b_h := of_opcode 0x44 1 rfl rfl (by decide)
theorem ld_b_l : Statement .ld_b_l := of_opcode 0x45 1 rfl rfl (by decide)
theorem ld_b__hl : Statement .ld_b__hl := of_opcode 0x46 1 rfl rfl (by decide)
theorem ld_b_a : Statement .ld_b_a := of_opcode 0x47 1 rfl rfl (by decide)
theorem ld_c_b : Statement .ld_c_b := of_opcode 0x48 1 rfl rfl (by decide)
theorem ld_c_c : Statement .ld_c_c := of_opcode 0x49 1 rfl rfl (by decide)
theorem ld_c_d : Statement .ld_c_d := of_opcode 0x4A 1 rfl rfl (by decide)
theorem ld_c_e : Statement .ld_c_e := of_opcode 0x4B 1 rfl rfl (by decide)
theorem ld_c_h : Statement .ld_c_h := of_opcode 0x4C 1 rfl rfl (by decide)
theorem ld_c_l : Statement .ld_c_l := of_opcode 0x4D 1 rfl rfl (by decide)
theorem ld_c__hl : Statement .ld_c__hl := of_opcode 0x4E 1 rfl rfl (by decide)
theorem ld_c_a : Statement .ld_c_a := of_opcode 0x4F 1 rfl rfl (by decide)
theorem ld_d_b : Statement .ld_d_b := of_opcode 0x50 1 rfl rfl (by decide)
theorem ld_d_c : Statement .ld_d_c := of_opcode 0x51 1 rfl rfl (by decide)
theorem ld_d_d : Statement .ld_d_d := of_opcode 0x52 1 rfl rfl (by decide)
theorem ld_d_e : Statement .ld_d_e := of_opcode 0x53 1 rfl rfl (by decide)
theorem ld_d_h : Statement .ld_d_h := of_opcode 0x54 1 rfl rfl (by decide)
theorem ld_d_l : Statement .ld_d_l := of_opcode 0x55 1 rfl rfl (by decide)
theorem ld_d__hl : Statement .ld_d__hl := of_opcode 0x56 1 rfl rfl (by decide)
theorem ld_d_a : Statement .ld_d_a := of_opcode 0x57 1 rfl rfl (by decide)
theorem ld_e_b : Statement .ld_e_b := of_opcode 0x58 1 rfl rfl (by decide)
theorem ld_e_c : Statement .ld_e_c := of_opcode 0x59 1 rfl rfl (by decide)
theorem ld_e_d : Statement .ld_e_d := of_opcode 0x5A 1 rfl rfl (by decide)
theorem ld_e_e : Statement .ld_e_e := of_opcode 0x5B 1 rfl rfl (by decide)
theorem ld_e_h : Statement .ld_e_h := of_opcode 0x5C 1 rfl rfl (by decide)
theorem ld_e_l : Statement .ld_e_l := of_opcode 0x5D 1 rfl rfl (by decide)
theorem ld_e__hl : Statement .ld_e__hl := of_opcode 0x5E 1 rfl rfl (by decide)
theorem ld_e_a : Statement .ld_e_a := of_opcode 0x5F 1 rfl rfl (by decide)
theorem ld_h_b : Statement .ld_h_b := of_opcode 0x60 1 rfl rfl (by decide)
theorem ld_h_c : Statement .ld_h_c := of_opcode 0x61 1 rfl rfl (by decide)
theorem ld_h_d : Statement .ld_h_d := of_opcode 0x62 1 rfl rfl (by decide)
theorem ld_h_e : Statement .ld_h_e := of_opcode 0x63 1 rfl rfl (by decide)
theorem ld_h_h : Statement .ld_h_h := of_opcode 0x64 1 rfl rfl (by decide)
theorem ld_h_l : Statement .ld_h_l := of_opcode 0x65 1 rfl rfl (by decide)
theorem ld_h__hl : Statement .ld_h__hl := of_opcode 0x66 1 rfl rfl (by decide)
theorem ld_h_a : Statement .ld_h_a := of_opcode 0x67 1 rfl rfl (by decide)
theorem ld_l_b : Statement .ld_l_b := of_opcode 0x68 1 rfl rfl (by decide)
theorem ld_l_c : Statement .ld_l_c := of_opcode 0x69 1 rfl rfl (by decide)
theorem ld_l_d : Statement .ld_l_d := of_opcode 0x6A 1 rfl rfl (by decide)
theorem ld_l_e : Statement .ld_l_e := of_opcode 0x6B 1 rfl rfl (by decide)
theorem ld_l_h : Statement .ld_l_h := of_opcode 0x6C 1 rfl rfl (by decide)
theorem ld_l_l : Statement .ld_l_l := of_opcode 0x6D 1 rfl rfl (by decide)
theorem ld_l__hl : Statement .ld_l__hl := of_opcode 0x6E 1 rfl rfl (by decide)
theorem ld_l_a : Statement .ld_l_a := of_opcode 0x6F 1 rfl rfl (by decide)
theorem ld__hl__b : Statement .ld__hl__b := of_opcode 0x70 1 rfl rfl (by decide)
theorem ld__hl__c : Statement .ld__hl__c := of_opcode 0x71 1 rfl rfl (by decide)
theorem ld__hl__d : Statement .ld__hl__d := of_opcode 0x72 1 rfl rfl (by decide)
theorem ld__hl__e : Statement .ld__hl__e := of_opcode 0x73 1 rfl rfl (by decide)
theorem ld__hl__h : Statement .ld__hl__h := of_opcode 0x74 1 rfl rfl (by decide)
theorem ld__hl__l : Statement .ld__hl__l := of_opcode 0x75 1 rfl rfl (by decide)
theorem halt : Statement .halt := of_opcode 0x76 1 rfl rfl (by decide)
theorem ld__hl__a : Statement .ld__hl__a := of_opcode 0x77 1 rfl rfl (by decide)
theorem ld_a_b : Statement .ld_a_b := of_opcode 0x78 1 rfl rfl (by decide)
theorem ld_a_c : Statement .ld_a_c := of_opcode 0x79 1 rfl rfl (by decide)
theorem ld_a_d : Statement .ld_a_d := of_opcode 0x7A 1 rfl rfl (by decide)
theorem ld_a_e : Statement .ld_a_e := of_opcode 0x7B 1 rfl rfl (by decide)
theorem ld_a_h : Statement .ld_a_h := of_opcode 0x7C 1 rfl rfl (by decide)
theorem ld_a_l : Statement .ld_a_l := of_opcode 0x7D 1 rfl rfl (by decide)
theorem ld_a__hl : Statement .ld_a__hl := of_opcode 0x7E 1 rfl rfl (by decide)
theorem ld_a_a : Statement .ld_a_a := of_opcode 0x7F 1 rfl rfl (by decide)
theorem add_a_b : Statement .add_a_b := of_opcode 0x80 1 rfl rfl (by decide)
theorem add_a_c : Statement .add_a_c := of_opcode 0x81 1 rfl rfl (by decide)
theorem add_a_d : Statement .add_a_d := of_opcode 0x82 1 rfl rfl (by decide)
theorem add_a_e : Statement .add_a_e := of_opcode 0x83 1 rfl rfl (by decide)
theorem add_a_h : Statement .add_a_h := of_opcode 0x84 1 rfl rfl (by decide)
theorem add_a_l : Statement .add_a_l := of_opcode 0x85 1 rfl rfl (by decide)
theorem add_a__hl : Statement .add_a__hl := of_opcode 0x86 1 rfl rfl (by decide)
theorem add_a_a : Statement .add_a_a := of_opcode 0x87 1 rfl rfl (by decide)
theorem sub_a_b : Statement .sub_a_b := of_opcode 0x90 1 rfl rfl (by decide)
theorem sub_a_c : Statement .sub_a_c := of_opcode 0x91 1 rfl rfl (by decide)
theorem sub_a_d : Statement .sub_a_d := of_opcode 0x92 1 rfl rfl (by decide)
theorem sub_a_e : Statement .sub_a_e := of_opcode 0x93 1 rfl rfl (by decide)
theorem sub_a_h : Statement .sub_a_h := of_opcode 0x94 1 rfl rfl (by decide)
theorem sub_a_l : Statement .sub_a_l := of_opcode 0x95 1 rfl rfl (by decide)
theorem sub_a__hl : Statement .sub_a__hl := of_opcode 0x96 1 rfl rfl (by decide)
theorem sub_a_a : Statement .sub_a_a := of_opcode 0x97 1 rfl rfl (by decide)
theorem xor_a_b : Statement .xor_a_b := of_opcode 0xA8 1 rfl rfl (by decide)
theorem xor_a_c : Statement .xor_a_c := of_opcode 0xA9 1 rfl rfl (by decide)
theorem xor_a_d : Statement .xor_a_d := of_opcode 0xAA 1 rfl rfl (by decide)
theorem xor_a_e : Statement .xor_a_e := of_opcode 0xAB 1 rfl rfl (by decide)
theorem xor_a_h : Statement .xor_a_h := of_opcode 0xAC 1 rfl rfl (by decide)
theorem xor_a_l : Statement .xor_a_l := of_opcode 0xAD 1 rfl rfl (by decide)
theorem xor_a__hl : Statement .xor_a__hl := of_opcode 0xAE 1 rfl rfl (by decide)
theorem xor_a_a : Statement .xor_a_a := of_opcode 0xAF 1 rfl rfl (by decide)
theorem cp_a_b : Statement .cp_a_b := of_opcode 0xB8 1 rfl rfl (by decide)
theorem cp_a_c : Statement .cp_a_c := of_opcode 0xB9 1 rfl rfl (by decide)
theorem cp_a_d : Statement .cp_a_d := of_opcode 0xBA 1 rfl rfl (by decide)
theorem cp_a_e : Statement .cp_a_e := of_opcode 0xBB 1 rfl rfl (by decide)
theorem cp_a_h : Statement .cp_a_h := of_opcode 0xBC 1 rfl rfl (by decide)
theorem cp_a_l : Statement .cp_a_l := of_opcode 0xBD 1 rfl rfl (by decide)
theorem cp_a__hl : Statement .cp_a__hl := of_opcode 0xBE 1 rfl rfl (by decide)
theorem cp_a_a : Statement .cp_a_a := of_opcode 0xBF 1 rfl rfl (by decide)
theorem ret_nz : Statement .ret_nz := of_opcode 0xC0 1 rfl rfl (by decide)
theorem jp_nn (nn : Word) : Statement (.jp_nn nn) := of_opcode 0xC3 3 rfl rfl (by decide)
theorem push_bc : Statement .push_bc := of_opcode 0xC5 1 rfl rfl (by decide)
theorem add_a_n (n : Byte) : Statement (.add_a_n n) := of_opcode 0xC6 2 rfl rfl (by decide)
theorem rst_0x00 : Statement .rst_0x00 := of_opcode 0xC7 1 rfl rfl (by decide)
theorem ret_z : Statement .ret_z := of_opcode 0xC8 1 rfl rfl (by decide)
theorem ret : Statement .ret := of_opcode 0xC9 1 rfl rfl (by decide)
theorem prefix_0xCB : Statement .prefix_0xCB := of_opcode 0xCB 1 rfl rfl (by decide)
theorem call_nn (nn : Word) : Statement (.call_nn nn) := of_opcode 0xCD 3 rfl rfl (by decide)
theorem rst_0x08 : Statement .rst_0x08 := of_opcode 0xCF 1 rfl rfl (by decide)
theorem ret_nc : Statement .ret_nc := of_opcode 0xD0 1 rfl rfl (by decide)
theorem push_de : Statement .push_de := of_opcode 0xD5 1 rfl rfl (by decide)
theorem sub_a_n (n : Byte) : Statement (.sub_a_n n) := of_opcode 0xD6 2 rfl rfl (by decide)
theorem rst_0x10 : Statement .rst_0x10 := of_opcode 0xD7 1 rfl rfl (by decide)
theorem ret_c : Statement .ret_c := of_opcode 0xD8 1 rfl rfl (by decide)
theorem rst_0x18 : Statement .rst_0x18 := of_opcode 0xDF 1 rfl rfl (by decide)
theorem push_hl : Statement .push_hl := of_opcode 0xE5 1 rfl rfl (by decide)
theorem rst_0x20 : Statement .rst_0x20 := of_opcode 0xE7 1 rfl rfl (by decide)
theorem jp_hl : Statement .jp_hl := of_opcode 0xE9 1 rfl rfl (by decide)
theorem xor_a_n (n : Byte) : Statement (.xor_a_n n) := of_opcode 0xEE 2 rfl rfl (by decide)
theorem rst_0x28 : Statement .rst_0x28 := of_opcode 0xEF 1 rfl rfl (by decide)
theorem di : Statement .di := of_opcode 0xF3 1 rfl rfl (by decide)
theorem push_af : Statement .push_af := of_opcode 0xF5 1 rfl rfl (by decide)
theorem rst_0x30 : Statement .rst_0x30 := of_opcode 0xF7 1 rfl rfl (by decide)
theorem ld_sp_hl : Statement .ld_sp_hl := of_opcode 0xF9 1 rfl rfl (by decide)
theorem ei : Statement .ei := of_opcode 0xFB 1 rfl rfl (by decide)
theorem cp_a_n (n : Byte) : Statement (.cp_a_n n) := of_opcode 0xFE 2 rfl rfl (by decide)
theorem rst_0x38 : Statement .rst_0x38 := of_opcode 0xFF 1 rfl rfl (by decide)

end EncodedLength

end Sys2Proof.Laws
end

