-- ==== Sys2Proof/Laws/Step.lean ====
section
/-! SUPPORT. Everything a machine step can do, said once. -/

namespace Sys2Proof.Machine

/-- Everything a machine step that answers a next state can be: a dispatch, an idle step, or an instruction. -/
theorem machineStep_cases {s t : State} (h : machineStep s = .next t) :
    (∃ n w, (updateCountdowns s).ready ≠ 0 ∧ (updateCountdowns s).ime = true ∧
      lowestLine (updateCountdowns s).ready = some n ∧ n < 5 ∧
      interruptCheck (updateCountdowns s) = .ok (w, true) ∧
      dispatch { updateCountdowns s with halted := false } n = .ok w ∧ t = endStep w.params.cycIrq.cycles w) ∨
    ((updateCountdowns s).ready = 0 ∧ s.halted = true ∧
      t = endStep (updateCountdowns s).params.cycHalt.cycles (updateCountdowns s)) ∨
    (WillFetch s ∧ ∃ i u w, fetchInstr (fetchState s) = .ok (i, u) ∧ exec i u = .next w ∧
      t = endStep (u.cycles i.opcode (u.taken i)) w) := by
  have run : ∀ u : State, u = fetchState s → WillFetch s → runInstr u = .next t →
      WillFetch s ∧ ∃ i u w, fetchInstr (fetchState s) = .ok (i, u) ∧ exec i u = .next w ∧
        t = endStep (u.cycles i.opcode (u.taken i)) w := by
    rintro u rfl hw hr
    refine ⟨hw, ?_⟩
    unfold runInstr at hr
    split at hr
    · simp at hr
    · rename_i i v hf
      cases he : exec i v with
      | next w =>
        rw [he] at hr
        simp only [endAction, Host.Outcome.next.injEq] at hr
        exact ⟨i, v, w, hf, he, hr.symm⟩
      | fault f => rw [he] at hr; simp [endAction] at hr
      | refused r => rw [he] at hr; simp [endAction] at hr
  unfold machineStep at h
  split at h
  · simp at h
  · rename_i w dispatched hc
    rcases interruptCheck_cases hc with ⟨h0, rfl, rfl⟩ | ⟨h1, hi, rfl, rfl⟩ | ⟨h1, hi, rfl, n, hn, hlt, hd⟩
    · simp only [Bool.false_eq_true, if_false, updateCountdowns_halted] at h
      split at h
      · rename_i hh
        simp only [Host.Outcome.next.injEq] at h
        exact .inr (.inl ⟨h0, hh, h.symm⟩)
      · rename_i hh
        have hh : s.halted = false := by simpa using hh
        refine .inr (.inr (run _ ?_ (.inl ⟨h0, by simpa using hh⟩) h))
        have : (updateCountdowns s).halted = false := by simpa using hh
        rw [fetchState, ← this]
    · exact .inr (.inr (run _ rfl (.inr ⟨h1, hi⟩) (by simp only [Bool.false_eq_true, if_false] at h; exact h)))
    · simp only [if_true, Host.Outcome.next.injEq] at h
      exact .inl ⟨n, w, h1, hi, hn, hlt, hc, hd, h.symm⟩

/-- A machine step writes no parameter. -/
theorem machineStep_params {s t : State} (h : machineStep s = .next t) : t.params = s.params := by
  rcases machineStep_cases h with ⟨n, w, -, -, -, -, -, hd, rfl⟩ | ⟨-, -, rfl⟩ | ⟨-, i, u, w, hf, he, rfl⟩
  · obtain ⟨m, hm, rfl⟩ := dispatch_ok.1 hd
    obtain ⟨-, -, -, -, -, -, -, -, -, -, hp⟩ := push16_frame hm
    simp only [endStep, mergeIrqIn_params, timerAdvance_params, hp, updateCountdowns_params]
  · simp only [endStep, mergeIrqIn_params, timerAdvance_params, updateCountdowns_params]
  · have hu := congrArg State.params (fetchInstr_frame hf)
    simp only [endStep, mergeIrqIn_params, timerAdvance_params, (exec_change he).frame.2.2.2, hu, fetchState,
      updateCountdowns_params]

/-- The step of the machine driven with the arguments that stand beside it is the machine step taken with them at hand:
which arguments are given, and that they are given anew each step, is all that `step` adds. -/
theorem step_eq_machineStep (s : State) : step s = machineStep s := by
  have hn := machineStep_inputs s
  have hp : ∀ t, machineStep { s with irqIn := [s.input] } = .next t → t.params = s.params := fun _ h =>
    machineStep_params (s := { s with irqIn := [s.input] }) h
  rw [hn]
  simp only [step, drive, CoreState.step]
  revert hp
  cases machineStep { s with irqIn := [s.input] } with
  | next t => intro hp; simp only [mapNext, State.withIrqIn, ← hp t rfl]
  | fault f => intro _; rfl
  | refused r => intro _; rfl

/-- Everything a step that answers a next state can be: a dispatch, an idle step, or an instruction. -/
theorem step_cases {s t : State} (h : step s = .next t) :
    (∃ n w, (updateCountdowns s).ready ≠ 0 ∧ (updateCountdowns s).ime = true ∧
      lowestLine (updateCountdowns s).ready = some n ∧ n < 5 ∧
      interruptCheck (updateCountdowns s) = .ok (w, true) ∧
      dispatch { updateCountdowns s with halted := false } n = .ok w ∧ t = endStep w.params.cycIrq.cycles w) ∨
    ((updateCountdowns s).ready = 0 ∧ s.halted = true ∧
      t = endStep (updateCountdowns s).params.cycHalt.cycles (updateCountdowns s)) ∨
    (WillFetch s ∧ ∃ i u w, fetchInstr (fetchState s) = .ok (i, u) ∧ exec i u = .next w ∧
      t = endStep (u.cycles i.opcode (u.taken i)) w) :=
  machineStep_cases (step_eq_machineStep s ▸ h)

/-- A step that fetches is a run of the instruction at PC. -/
theorem step_of_willFetch {s : State} (h : WillFetch s) : step s = runInstr (fetchState s) := by
  rw [step_eq_machineStep]
  unfold machineStep
  rcases h with ⟨h0, hh⟩ | ⟨h1, hi⟩
  · have hl : lowestLine (updateCountdowns s).ready = none := (lowestLine_eq_none _).2 h0
    have hf : updateCountdowns s = fetchState s := by rw [fetchState, ← hh]
    simp only [interruptCheck, hl, hh, Bool.false_eq_true, if_false]
    rw [hf]
  · cases hl : lowestLine (updateCountdowns s).ready with
    | none => exact absurd ((lowestLine_eq_none _).1 hl) h1
    | some n =>
      have hc : interruptCheck (updateCountdowns s) = .ok (fetchState s, false) := by
        simp only [interruptCheck, hl]
        exact if_neg (by rw [hi]; exact Bool.false_ne_true)
      rw [hc]
      rfl

end Sys2Proof.Machine
end

