-- ==== Sys2Proof/WellFormed.lean ====
section
/-! DEFINITION. Which terms of `Instr` are instructions. Every operand is held in exactly the bits its encoding gives it
(Syntax.lean), so no operand can be out of range; the one check left is that the term is an operation. -/

namespace Sys2Proof

/-- One of the 144 operations of spec/30_encoding.md R108. The row of the prefix byte is "not an instruction"
(spec/opcode_table.json): decoding it is the fatal `UnsupportedPrefix` (R110, spec/46_system.md R233). -/
def Instr.wellFormed : Instr → Bool
  | .prefix_0xCB => false
  | _ => true

end Sys2Proof
end

