-- ==== Sys2Proof/Tests/Slice0.lean ====
section
/-! SUPPORT. The model's own tests. Every expected value is the spec's: the words of spec/30_encoding.md R108 and
spec/opcode_table.json, the worked examples S1 to S8 and the vectors V1 to V143 of spec/95_test_vectors.md, the cost table of
spec/70_reset_and_hazards.md R307. The theorems `witness_…` show states and operands that meet the hypotheses of the
obligation they name. -/

namespace Sys2Proof.Tests

open Sys2Proof.Machine

/-! ## Helpers -/

/-- After reset, with bytes at an address and PC there. -/
def prog (pc : Word) (bytes : List Byte) : State := { placeAll State.reset pc bytes with pc := pc }

/-- Bytes placed in RAM or ROM of a state. -/
def withBytes (s : State) (address : Word) (bytes : List Byte) : State := placeAll s address bytes

/-- One step ends in a state that passes the check. -/
def stepsTo (s : State) (check : State → Bool) : Bool :=
  match step s with
  | .next t => check t
  | _ => false

/-- One step ends in the fault. -/
def faults (s : State) (f : Fault) : Bool :=
  match step s with
  | .fault g => g = f
  | _ => false

/-- Every list of bytes decodes to its instruction, with no byte left. -/
def decodesAll (rows : List (List Byte × Instr)) : Bool :=
  rows.all fun row =>
    match decode row.1 with
    | .ok (i, []) => i = row.2
    | _ => false

/-- Every opcode byte costs `taken` or `notTaken` cycles by default. -/
def costsAll (taken notTaken : Nat) (opcodes : List Byte) : Bool :=
  opcodes.all fun op => defaultCycles op true = taken && defaultCycles op false = notTaken

/-! ## Well-formedness: the one ill-formed term is refused, its neighbours are not -/

theorem test_wellFormed_refuses_prefix : Instr.wellFormed .prefix_0xCB = false := by decide

theorem test_wellFormed_accepts : (Instr.wellFormed .ret && Instr.wellFormed (.call_nn 0xCBCB)) = true := by decide

/-! ## Decoding: every row of spec/opcode_table.json from the bits of its encoding -/

theorem test_decode_rows_1 : decodesAll [
   ([0b00000001, 0b01111110, 0b10110100], .ld_bc_nn 0xB47E), ([0b00000010], .ld__bc__a), ([0b00000110, 0b01011010], .ld_b_n 0x5A),
   ([0b00001010], .ld_a__bc), ([0b00001110, 0b01011010], .ld_c_n 0x5A), ([0b00010001, 0b01111110, 0b10110100], .ld_de_nn 0xB47E),
   ([0b00010010], .ld__de__a), ([0b00010110, 0b01011010], .ld_d_n 0x5A), ([0b00011000, 0b11111110], .jr_e 0xFE),
   ([0b00011010], .ld_a__de), ([0b00011110, 0b01011010], .ld_e_n 0x5A), ([0b00100000, 0b11111110], .jr_nz_e 0xFE),
   ([0b00100001, 0b01111110, 0b10110100], .ld_hl_nn 0xB47E), ([0b00100110, 0b01011010], .ld_h_n 0x5A), ([0b00101000, 0b11111110], .jr_z_e 0xFE)] = true := by decide

theorem test_decode_rows_2 : decodesAll [
   ([0b00101110, 0b01011010], .ld_l_n 0x5A), ([0b00110000, 0b11111110], .jr_nc_e 0xFE), ([0b00110001, 0b01111110, 0b10110100], .ld_sp_nn 0xB47E),
   ([0b00110110, 0b01011010], .ld__hl__n 0x5A), ([0b00111000, 0b11111110], .jr_c_e 0xFE), ([0b00111110, 0b01011010], .ld_a_n 0x5A),
   ([0b01000000], .ld_b_b), ([0b01000001], .ld_b_c), ([0b01000010], .ld_b_d),
   ([0b01000011], .ld_b_e), ([0b01000100], .ld_b_h), ([0b01000101], .ld_b_l),
   ([0b01000110], .ld_b__hl), ([0b01000111], .ld_b_a), ([0b01001000], .ld_c_b)] = true := by decide

theorem test_decode_rows_3 : decodesAll [
   ([0b01001001], .ld_c_c), ([0b01001010], .ld_c_d), ([0b01001011], .ld_c_e),
   ([0b01001100], .ld_c_h), ([0b01001101], .ld_c_l), ([0b01001110], .ld_c__hl),
   ([0b01001111], .ld_c_a), ([0b01010000], .ld_d_b), ([0b01010001], .ld_d_c),
   ([0b01010010], .ld_d_d), ([0b01010011], .ld_d_e), ([0b01010100], .ld_d_h),
   ([0b01010101], .ld_d_l), ([0b01010110], .ld_d__hl), ([0b01010111], .ld_d_a)] = true := by decide

theorem test_decode_rows_4 : decodesAll [
   ([0b01011000], .ld_e_b), ([0b01011001], .ld_e_c), ([0b01011010], .ld_e_d),
   ([0b01011011], .ld_e_e), ([0b01011100], .ld_e_h), ([0b01011101], .ld_e_l),
   ([0b01011110], .ld_e__hl), ([0b01011111], .ld_e_a), ([0b01100000], .ld_h_b),
   ([0b01100001], .ld_h_c), ([0b01100010], .ld_h_d), ([0b01100011], .ld_h_e),
   ([0b01100100], .ld_h_h), ([0b01100101], .ld_h_l), ([0b01100110], .ld_h__hl)] = true := by decide

theorem test_decode_rows_5 : decodesAll [
   ([0b01100111], .ld_h_a), ([0b01101000], .ld_l_b), ([0b01101001], .ld_l_c),
   ([0b01101010], .ld_l_d), ([0b01101011], .ld_l_e), ([0b01101100], .ld_l_h),
   ([0b01101101], .ld_l_l), ([0b01101110], .ld_l__hl), ([0b01101111], .ld_l_a),
   ([0b01110000], .ld__hl__b), ([0b01110001], .ld__hl__c), ([0b01110010], .ld__hl__d),
   ([0b01110011], .ld__hl__e), ([0b01110100], .ld__hl__h), ([0b01110101], .ld__hl__l)] = true := by decide

theorem test_decode_rows_6 : decodesAll [
   ([0b01110110], .halt), ([0b01110111], .ld__hl__a), ([0b01111000], .ld_a_b),
   ([0b01111001], .ld_a_c), ([0b01111010], .ld_a_d), ([0b01111011], .ld_a_e),
   ([0b01111100], .ld_a_h), ([0b01111101], .ld_a_l), ([0b01111110], .ld_a__hl),
   ([0b01111111], .ld_a_a), ([0b10000000], .add_a_b), ([0b10000001], .add_a_c),
   ([0b10000010], .add_a_d), ([0b10000011], .add_a_e), ([0b10000100], .add_a_h)] = true := by decide

theorem test_decode_rows_7 : decodesAll [
   ([0b10000101], .add_a_l), ([0b10000110], .add_a__hl), ([0b10000111], .add_a_a),
   ([0b10010000], .sub_a_b), ([0b10010001], .sub_a_c), ([0b10010010], .sub_a_d),
   ([0b10010011], .sub_a_e), ([0b10010100], .sub_a_h), ([0b10010101], .sub_a_l),
   ([0b10010110], .sub_a__hl), ([0b10010111], .sub_a_a), ([0b10101000], .xor_a_b),
   ([0b10101001], .xor_a_c), ([0b10101010], .xor_a_d), ([0b10101011], .xor_a_e)] = true := by decide

theorem test_decode_rows_8 : decodesAll [
   ([0b10101100], .xor_a_h), ([0b10101101], .xor_a_l), ([0b10101110], .xor_a__hl),
   ([0b10101111], .xor_a_a), ([0b10111000], .cp_a_b), ([0b10111001], .cp_a_c),
   ([0b10111010], .cp_a_d), ([0b10111011], .cp_a_e), ([0b10111100], .cp_a_h),
   ([0b10111101], .cp_a_l), ([0b10111110], .cp_a__hl), ([0b10111111], .cp_a_a),
   ([0b11000000], .ret_nz), ([0b11000011, 0b01111110, 0b10110100], .jp_nn 0xB47E), ([0b11000101], .push_bc)] = true := by decide

theorem test_decode_rows_9 : decodesAll [
   ([0b11000110, 0b01011010], .add_a_n 0x5A), ([0b11000111], .rst_0x00), ([0b11001000], .ret_z),
   ([0b11001001], .ret), ([0b11001011], .prefix_0xCB), ([0b11001101, 0b01111110, 0b10110100], .call_nn 0xB47E),
   ([0b11001111], .rst_0x08), ([0b11010000], .ret_nc), ([0b11010101], .push_de),
   ([0b11010110, 0b01011010], .sub_a_n 0x5A), ([0b11010111], .rst_0x10), ([0b11011000], .ret_c),
   ([0b11011111], .rst_0x18), ([0b11100101], .push_hl), ([0b11100111], .rst_0x20)] = true := by decide

theorem test_decode_rows_10 : decodesAll [
   ([0b11101001], .jp_hl), ([0b11101110, 0b01011010], .xor_a_n 0x5A), ([0b11101111], .rst_0x28),
   ([0b11110011], .di), ([0b11110101], .push_af), ([0b11110111], .rst_0x30),
   ([0b11111001], .ld_sp_hl), ([0b11111011], .ei), ([0b11111110, 0b01011010], .cp_a_n 0x5A),
   ([0b11111111], .rst_0x38)] = true := by decide

theorem test_undefined_opcodes_refused :
    (undefinedOpcodes.all fun op => decodeTableWord 8 op.toNat = none) = true := by decide

theorem test_truncated_refused :
    ((match decode [] with | .error .truncated => true | _ => false) &&
      (match decode [0x3E] with | .error .truncated => true | _ => false) &&
      (match decode [0xC3, 0x20] with | .error .truncated => true | _ => false)) = true := by decide

/-- A row of three bytes whose operand bits the table leaves out is decoded with zeros. -/
theorem test_table_word : decodeTableWord 8 0xC3 = some (.jp_nn 0) ∧ decodeTableWord 24 0x1234CD = some (.call_nn 0x1234) ∧
    decodeTableWord 16 0xFF18 = some (.jr_e 0xFF) ∧ decodeTableWord 8 0xFF18 = some (.jr_e 0) := by decide

theorem test_withFetchWord :
    stepsTo (State.reset.withFetchWord 24 0x0200CD) (fun t => t.pc = 0x0200 && t.sp = 0xFFFC) = true := by decide

theorem test_encode_bytes : encode (.jp_nn 0x0120) = [0xC3, 0x20, 0x01] ∧ encode (.jr_nz_e 0xF8) = [0x20, 0xF8] := by decide

/-! ## Default costs, R307 -/

theorem test_cost_4 : costsAll 4 4 (
   [0x40, 0x41, 0x42, 0x43, 0x44, 0x45, 0x47, 0x48, 0x49, 0x4A, 0x4B, 0x4C, 0x4D, 0x4F] ++
   [0x50, 0x51, 0x52, 0x53, 0x54, 0x55, 0x57, 0x58, 0x59, 0x5A, 0x5B, 0x5C, 0x5D, 0x5F] ++
   [0x60, 0x61, 0x62, 0x63, 0x64, 0x65, 0x67, 0x68, 0x69, 0x6A, 0x6B, 0x6C, 0x6D, 0x6F] ++
   [0x76, 0x78, 0x79, 0x7A, 0x7B, 0x7C, 0x7D, 0x7F, 0x80, 0x81, 0x82, 0x83, 0x84, 0x85] ++
   [0x87, 0x90, 0x91, 0x92, 0x93, 0x94, 0x95, 0x97, 0xA8, 0xA9, 0xAA, 0xAB, 0xAC, 0xAD] ++
   [0xAF, 0xB8, 0xB9, 0xBA, 0xBB, 0xBC, 0xBD, 0xBF, 0xE9, 0xF3, 0xFB]) = true := by decide

theorem test_cost_8 : costsAll 8 8 (
   [0x02, 0x06, 0x0A, 0x0E, 0x12, 0x16, 0x1A, 0x1E, 0x26, 0x2E, 0x3E, 0x46, 0x4E, 0x56] ++
   [0x5E, 0x66, 0x6E, 0x70, 0x71, 0x72, 0x73, 0x74, 0x75, 0x77, 0x7E, 0x86, 0x96, 0xAE] ++
   [0xBE, 0xC6, 0xD6, 0xEE, 0xF9, 0xFE]) = true := by decide

theorem test_cost_12_or_8 : costsAll 12 8 (
   [0x20, 0x28, 0x30, 0x38]) = true := by decide

theorem test_cost_12 : costsAll 12 12 (
   [0x01, 0x11, 0x18, 0x21, 0x31, 0x36]) = true := by decide

theorem test_cost_16 : costsAll 16 16 (
   [0xC3, 0xC5, 0xC7, 0xC9, 0xCF, 0xD5, 0xD7, 0xDF, 0xE5, 0xE7, 0xEF, 0xF5, 0xF7, 0xFF]) = true := by decide

theorem test_cost_20_or_8 : costsAll 20 8 (
   [0xC0, 0xC8, 0xD0, 0xD8]) = true := by decide

theorem test_cost_24 : costsAll 24 24 (
   [0xCD]) = true := by decide

/-! ## Registers -/

/-- S1. -/
theorem test_pairs : (State.reset.setBc 0x1234).bc = 0x1234 ∧ (State.reset.setDe 0xFFFF).e = 0xFF ∧
    (State.reset.setHl 0x0000).h = 0x00 ∧ (State.reset.setAf 0x12FF).af = 0x12F0 ∧ (State.reset.setAf 0xAB0F).f = 0x00 := by
  decide

/-! ## Loads, section 2.1 -/

theorem test_ld_b_c : stepsTo { prog 0x0100 [0x41] with b := 0x12, c := 0x34 }
    (fun t => t.b = 0x34 && t.c = 0x34 && t.pc = 0x0101 && t.divc = 4) = true := by decide

theorem test_ld_a_atHl : stepsTo { withBytes (prog 0x0100 [0x7E]) 0xC000 [0x5A] with h := 0xC0, l := 0x00 }
    (fun t => t.a = 0x5A && t.f = 0xB0 && t.pc = 0x0101 && t.divc = 8) = true := by decide

/-- V4: the address is taken before the write. -/
theorem test_ld_h_atHl : stepsTo { withBytes (prog 0x0100 [0x66]) 0xC010 [0xD0] with h := 0xC0, l := 0x10 }
    (fun t => t.h = 0xD0 && t.l = 0x10) = true := by decide

theorem test_ld_atHl_l : stepsTo { prog 0x0100 [0x75] with h := 0xC0, l := 0x10 }
    (fun t => t.mem = [(0xC010, 0x10)]) = true := by decide

/-- V9, V10. -/
theorem test_ld_a_atPair :
    (stepsTo { withBytes (prog 0x0100 [0x0A]) 0xFF80 [0x99] with b := 0xFF, c := 0x80 } (fun t => t.a = 0x99) &&
      stepsTo { prog 0x0100 [0x1A, 0, 0, 0, 0xCE] with d := 0x01, e := 0x04 } (fun t => t.a = 0xCE)) = true := by decide

/-- V11, V13. -/
theorem test_ld_atPair_a :
    (stepsTo { prog 0x0100 [0x02] with b := 0xA0, c := 0x00 } (fun t => t.mem = [(0xA000, 0x01)]) &&
      stepsTo { prog 0x0100 [0x12] with d := 0xFF, e := 0xFF, a := 0x04 } (fun t => t.ie = 0x04 && t.mem = [])) = true := by
  decide

/-- V12, V16, V23. -/
theorem test_load_store_faults :
    (faults (prog 0x0100 [0x02]) (.unmapped 0x0013 .store) &&
      faults { prog 0x0100 [0x36, 0x99] with h := 0x80, l := 0x00 } (.unmapped 0x8000 .store) &&
      faults { prog 0x0100 [0x7E] with h := 0x80, l := 0x00 } (.unmapped 0x8000 .load)) = true := by decide

theorem test_ld_a_n : stepsTo (prog 0x0100 [0x3E, 0x05]) (fun t => t.a = 0x05 && t.pc = 0x0102) = true := by decide

/-- V15: the timer runs with the control value the step stored. -/
theorem test_ld_atHl_n : stepsTo { prog 0x0100 [0x36, 0x05] with h := 0xFF, l := 0x07 }
    (fun t => t.tac = 0x05 && t.pc = 0x0102 && t.timaAcc = 12 && t.divc = 0x000C) = true := by decide

theorem test_ld_bc_nn : stepsTo (prog 0x0100 [0x01, 0x34, 0x12])
    (fun t => t.b = 0x12 && t.c = 0x34 && t.pc = 0x0103) = true := by decide

theorem test_ld_sp : (stepsTo (prog 0x0100 [0x31, 0xF0, 0xDF]) (fun t => t.sp = 0xDFF0 && t.pc = 0x0103) &&
    stepsTo { prog 0x0100 [0xF9] with h := 0xDF, l := 0xF0 } (fun t => t.sp = 0xDFF0 && t.pc = 0x0101)) = true := by decide

/-! ## Arithmetic and logic, sections 2.2 to 2.4 -/

/-- `A`, the operand, `A` after, `F` after. -/
def aluRows (opcode : Byte) (rows : List (Byte × Byte × Byte × Byte)) : Bool :=
  rows.all fun row => stepsTo { prog 0x0100 [opcode] with a := row.1, b := row.2.1 }
    (fun t => t.a = row.2.2.1 && t.f = row.2.2.2 && t.b = row.2.1 && t.pc = 0x0101)

/-- V25 to V34. -/
theorem test_add_a_b : aluRows 0x80 [(0x0F, 0x01, 0x10, 0x20), (0x00, 0x00, 0x00, 0x80), (0xFF, 0x01, 0x00, 0xB0),
    (0x80, 0x80, 0x00, 0x90), (0x08, 0x08, 0x10, 0x20), (0xF0, 0x20, 0x10, 0x10), (0x3A, 0xC6, 0x00, 0xB0),
    (0x7F, 0x01, 0x80, 0x20), (0xFF, 0xFF, 0xFE, 0x30), (0x12, 0x00, 0x12, 0x00)] = true := by decide

/-- V35 to V39, V45 to V50. -/
theorem test_sub_a_b : aluRows 0x90 [(0x00, 0x01, 0xFF, 0x70), (0x00, 0x00, 0x00, 0xC0), (0x10, 0x01, 0x0F, 0x60),
    (0x3E, 0x0F, 0x2F, 0x60), (0x3E, 0x40, 0xFE, 0x50), (0x80, 0x01, 0x7F, 0x60), (0x00, 0xFF, 0x01, 0x70),
    (0x0F, 0x10, 0xFF, 0x50), (0x05, 0x00, 0x05, 0x40)] = true := by decide

theorem test_cp_a_b : aluRows 0xB8 [(0x00, 0x01, 0x00, 0x70), (0x3E, 0x3E, 0x3E, 0xC0), (0x3E, 0x40, 0x3E, 0x50),
    (0x05, 0x00, 0x05, 0x40)] = true := by decide

/-- V51 to V56. -/
theorem test_xor_a_b : aluRows 0xA8 [(0xFF, 0x0F, 0xF0, 0x00), (0x5A, 0x5A, 0x00, 0x80), (0x00, 0x00, 0x00, 0x80),
    (0x81, 0x01, 0x80, 0x00), (0xAA, 0xFF, 0x55, 0x00), (0x00, 0x80, 0x80, 0x00)] = true := by decide

/-- The `a` forms: the source is the destination. -/
theorem test_alu_a_a :
    (stepsTo { prog 0x0100 [0x87] with a := 0x99 } (fun t => t.a = 0x32 && t.f = 0x30) &&
      stepsTo { prog 0x0100 [0x97] with a := 0x99 } (fun t => t.a = 0x00 && t.f = 0xC0) &&
      stepsTo { prog 0x0100 [0xBF] with a := 0x99 } (fun t => t.a = 0x99 && t.f = 0xC0) &&
      stepsTo { prog 0x0100 [0xAF] with a := 0x99 } (fun t => t.a = 0x00 && t.f = 0x80)) = true := by decide

/-- The `(hl)` forms with `A=0F`, `WRAM[0]=01`. -/
theorem test_alu_atHl :
    let s := fun op => { withBytes (prog 0x0100 [op]) 0xC000 [0x01] with a := 0x0F, h := 0xC0, l := 0x00 }
    (stepsTo (s 0x86) (fun t => t.a = 0x10 && t.f = 0x20 && t.divc = 8) &&
      stepsTo (s 0x96) (fun t => t.a = 0x0E && t.f = 0x40 && t.divc = 8) &&
      stepsTo (s 0xBE) (fun t => t.a = 0x0F && t.f = 0x40 && t.divc = 8) &&
      stepsTo (s 0xAE) (fun t => t.a = 0x0E && t.f = 0x00 && t.divc = 8)) = true := by decide

/-- The immediate forms. -/
theorem test_alu_n :
    let s := fun op => { prog 0x0100 [op, 0x01] with a := 0x0F }
    (stepsTo (s 0xC6) (fun t => t.a = 0x10 && t.f = 0x20 && t.pc = 0x0102) &&
      stepsTo (s 0xD6) (fun t => t.a = 0x0E && t.f = 0x40 && t.pc = 0x0102) &&
      stepsTo (s 0xFE) (fun t => t.a = 0x0F && t.f = 0x40 && t.pc = 0x0102) &&
      stepsTo (s 0xEE) (fun t => t.a = 0x0E && t.f = 0x00 && t.pc = 0x0102)) = true := by decide

/-! ## Stack, call, return, restart, section 2.5 -/

/-- V57, V58. -/
theorem test_push :
    (stepsTo { prog 0x0100 [0xC5] with b := 0x12, c := 0x34 }
        (fun t => t.sp = 0xFFFC && t.mem = [(0xFFFC, 0x34), (0xFFFD, 0x12)] && t.pc = 0x0101 && t.divc = 16) &&
      stepsTo { prog 0x0100 [0xF5] with a := 0xAB, flags := ⟨false, true, false, true⟩ }
        (fun t => t.mem = [(0xFFFC, 0x50), (0xFFFD, 0xAB)] && t.f = 0x50)) = true := by decide

/-- V60, V61, V62: SP wraps, the high byte lands on IE; a push into ROM is fatal, the low byte first. -/
theorem test_push_edges :
    (stepsTo { prog 0x0100 [0xC5] with b := 0x12, c := 0x34, sp := 0x0000 }
        (fun t => t.sp = 0xFFFE && t.mem = [(0xFFFE, 0x34)] && t.ie = 0x12) &&
      faults { prog 0x0100 [0xC5] with b := 0x12, c := 0x34, sp := 0x0001 } (.unmapped 0x0000 .store) &&
      faults { prog 0x0100 [0xC5] with b := 0x12, c := 0x34, sp := 0xA000 } (.unmapped 0x9FFE .store)) = true := by decide

theorem test_call : (stepsTo (prog 0x0100 [0xCD, 0x00, 0x02])
      (fun t => t.pc = 0x0200 && t.sp = 0xFFFC && t.mem = [(0xFFFC, 0x03), (0xFFFD, 0x01)] && t.divc = 24) &&
    faults { prog 0x0100 [0xCD, 0x00, 0x02] with sp := 0x4000 } (.unmapped 0x3FFE .store)) = true := by decide

/-- V66, V68. -/
theorem test_ret :
    (stepsTo { withBytes (prog 0x0100 [0xC9]) 0xFFFC [0x03, 0x01] with sp := 0xFFFC } (fun t => t.pc = 0x0103 && t.sp = 0xFFFE) &&
      stepsTo { prog 0x0100 [0xC9] with sp := 0xFFFF, ie := 0x34 } (fun t => t.pc = 0x0034 && t.sp = 0x0001)) = true := by
  decide

/-- V71: the eight restart vectors, on row EF the pushed address. -/
theorem test_rst :
    ([(0xC7, 0x0000), (0xCF, 0x0008), (0xD7, 0x0010), (0xDF, 0x0018), (0xE7, 0x0020), (0xEF, 0x0028), (0xF7, 0x0030),
      (0xFF, 0x0038)].all fun (row : Byte × Word) => stepsTo (prog 0x0100 [row.1])
        (fun t => t.pc = row.2 && t.sp = 0xFFFC && t.mem = [(0xFFFC, 0x01), (0xFFFD, 0x01)])) = true := by decide

/-- V72: opcode, and whether it is taken with `F` = 00, 10, 80, 90. -/
theorem test_ret_cc :
    ([(0xC0, [true, true, false, false]), (0xC8, [false, false, true, true]), (0xD0, [true, false, true, false]),
      (0xD8, [false, true, false, true])].all fun (row : Byte × List Bool) =>
        (row.2.zip [0x00, 0x10, 0x80, 0x90]).all fun (col : Bool × Byte) =>
          stepsTo { withBytes (prog 0x0100 [row.1]) 0xFFFC [0x03, 0x02] with sp := 0xFFFC, flags := Flags.ofByte col.2 }
            (fun t => if col.1 then t.pc = 0x0203 && t.sp = 0xFFFE && t.divc = 20
              else t.pc = 0x0101 && t.sp = 0xFFFC && t.divc = 8)) = true := by decide

/-! ## Jumps, section 2.7 -/

/-- V79 to V84. -/
theorem test_jr :
    (stepsTo (prog 0x0100 [0x18, 0xFE]) (fun t => t.pc = 0x0100 && t.divc = 12) &&
      stepsTo (prog 0x0100 [0x18, 0x7F]) (fun t => t.pc = 0x0181) &&
      stepsTo (prog 0x0100 [0x18, 0x80]) (fun t => t.pc = 0x0082) &&
      stepsTo (prog 0x0000 [0x18, 0x80]) (fun t => t.pc = 0xFF82) &&
      stepsTo (prog 0xFFFD [0x18, 0x05]) (fun t => t.pc = 0x0004)) = true := by decide

/-- The truth table of V72 with the opcodes of `jr cc`. -/
theorem test_jr_cc :
    ([(0x20, [true, true, false, false]), (0x28, [false, false, true, true]), (0x30, [true, false, true, false]),
      (0x38, [false, true, false, true])].all fun (row : Byte × List Bool) =>
        (row.2.zip [0x00, 0x10, 0x80, 0x90]).all fun (col : Bool × Byte) =>
          stepsTo { prog 0x010C [row.1, 0xF8] with flags := Flags.ofByte col.2 }
            (fun t => if col.1 then t.pc = 0x0106 && t.divc = 12 else t.pc = 0x010E && t.divc = 8)) = true := by decide

/-- V87, V88. -/
theorem test_jp : (stepsTo (prog 0x010B [0xC3, 0x20, 0x01]) (fun t => t.pc = 0x0120 && t.divc = 16) &&
    stepsTo { prog 0x0100 [0xE9] with h := 0xC0, l := 0x00 } (fun t => t.pc = 0xC000 && t.divc = 4)) = true := by decide

/-! ## The toggles, halt, faults of the fetch, sections 2.6 and 2.11 -/

/-- V40 to V42: what each of the three steps starts from is the state the table gives after the step before it. -/
theorem test_ei_timeline :
    (stepsTo { prog 0x0100 [0xFB] with ie := 0x04, iflag := 0x04 } (fun t => t.eiCnt = .two && !t.ime && t.pc = 0x0101) &&
      stepsTo { prog 0x0101 [0x40] with ie := 0x04, iflag := 0x04, eiCnt := .two }
        (fun t => t.eiCnt = .one && !t.ime && t.pc = 0x0102) &&
      stepsTo { prog 0x0102 [0x7F] with ie := 0x04, iflag := 0x04, eiCnt := .one }
        (fun t => t.eiCnt = .idle && !t.ime && t.iflag = 0x00 && t.pc = 0x0050 && t.sp = 0xFFFC &&
          t.mem = [(0xFFFC, 0x02), (0xFFFD, 0x01)] && t.divc = 20)) = true := by decide

/-- V73: the step after `di` runs with the old IME, the one after that without it. -/
theorem test_di_timeline :
    (stepsTo { prog 0x0100 [0xF3] with ime := true } (fun t => t.diCnt = .two && t.ime) &&
      stepsTo { prog 0x0101 [0x40] with ime := true, diCnt := .two } (fun t => t.diCnt = .one && t.ime && t.pc = 0x0102) &&
      stepsTo { prog 0x0102 [0x49] with ime := true, diCnt := .one } (fun t => t.diCnt = .idle && !t.ime)) = true := by decide

/-- V75: where both counts expire, the disable comes first. -/
theorem test_both_countdowns :
    (updateCountdowns { State.reset with eiCnt := .one, diCnt := .one }).ime = true := by decide

/-- V76, V77: halting, waking without a dispatch, idling. -/
theorem test_halt :
    (stepsTo { prog 0x0100 [0x76] with ie := 0x01, iflag := 0x01 } (fun t => t.halted && t.pc = 0x0101 && t.f = 0xB0) &&
      stepsTo { prog 0x0101 [0x40] with ie := 0x01, iflag := 0x01, halted := true }
        (fun t => !t.halted && t.pc = 0x0102 && t.iflag = 0x01) &&
      stepsTo { prog 0x0101 [0x40] with ie := 0x01, halted := true }
        (fun t => t.halted && t.pc = 0x0101 && t.divc = 4)) = true := by decide

/-- V135, V136, V137, V139. -/
theorem test_decode_faults :
    (faults (prog 0x0100 [0x00]) (.unknownOpcode 0x00 0x0100) && faults (prog 0x0100 [0xCB, 0x37]) .unsupportedPrefix &&
      faults (prog 0x0100 [0xD3]) (.unknownOpcode 0xD3 0x0100) &&
      faults (prog 0x0100 [0xD9]) (.unknownOpcode 0xD9 0x0100)) = true := by decide

/-- V142, V143: the faults of an operand fetch and of an opcode fetch. -/
theorem test_fetch_faults :
    (faults (prog 0x3FFE [0xC3, 0x00]) (.unmapped 0x4000 .load) &&
      faults { State.reset with pc := 0xFEA0 } (.unmapped 0xFEA0 .load)) = true := by decide

/-! ## Interrupts, section 2.8 -/

/-- V90, V96: the lowest line wins, and only its bit is cleared. -/
theorem test_dispatch :
    (stepsTo { prog 0x0100 [0x40] with ie := 0x1F, iflag := 0x06, ime := true }
        (fun t => t.iflag = 0x04 && !t.ime && t.pc = 0x0048 && t.sp = 0xFFFC && t.mem = [(0xFFFD, 0x01)] && t.divc = 20) &&
      stepsTo { prog 0x0100 [0x40] with ie := 0x30, iflag := 0x30, ime := true }
        (fun t => t.iflag = 0x20 && !t.ime && t.pc = 0x0060)) = true := by decide

/-- V91: the five vectors. -/
theorem test_vectors :
    ([(0x01, 0x0040), (0x02, 0x0048), (0x04, 0x0050), (0x08, 0x0058), (0x10, 0x0060)].all fun (row : Byte × Word) =>
      stepsTo { prog 0x0100 [0x40] with ie := 0x1F, iflag := row.1, ime := true }
        (fun t => t.pc = row.2 && t.iflag = 0x00 && !t.ime)) = true := by decide

/-- V92, V93, V97: masked, or IME 0: no dispatch. -/
theorem test_no_dispatch :
    (stepsTo { prog 0x0100 [0x40] with ie := 0x04, iflag := 0x03, ime := true } (fun t => t.pc = 0x0101 && t.iflag = 0x03 && t.ime) &&
      stepsTo { prog 0x0100 [0x40] with ie := 0x1F, iflag := 0x06 } (fun t => t.pc = 0x0101 && t.iflag = 0x06) &&
      stepsTo { prog 0x0100 [0x40] with ie := 0x20, iflag := 0x20 } (fun t => t.pc = 0x0101)) = true := by decide

/-- V94, V95, V98. -/
theorem test_dispatch_faults :
    (faults { prog 0x0100 [0x40] with ie := 0x20, iflag := 0x20, ime := true } (.invalidInterruptLine 5) &&
      faults { prog 0x0100 [0x40] with ie := 0xE0, iflag := 0x80, ime := true } (.invalidInterruptLine 7) &&
      faults { prog 0x0100 [0x40] with ie := 0x1F, iflag := 0x06, ime := true, sp := 0x4000 } (.unmapped 0x3FFE .store)) = true := by
  decide

/-- V99: an input asserted during a step is pending after it. -/
theorem test_input : stepsTo { prog 0x0100 [0x40] with ie := 0x10, ime := true, irqIn := [⟨false, false, false, true⟩] }
    (fun t => t.pc = 0x0101 && t.iflag = 0x10 && t.irqIn = []) = true := by decide

/-! ## Timer, section 2.9 -/

/-- `TAC`, `TIMA`, `TMA`, `tima_acc`, cycles, and `TIMA`, `tima_acc`, `IF` after. -/
def timerRow (tac tima tma : Byte) (acc c : Nat) (tima' : Byte) (acc' : Nat) (iflag' : Byte) : Bool :=
  let t := timerAdvance c { State.reset with tac := tac, tima := tima, tma := tma, timaAcc := acc }
  t.tima = tima' && t.timaAcc = acc' && t.iflag = iflag' && t.divc = BitVec.ofNat 16 c

/-- V102, V103, V105, V107, V108, V109. -/
theorem test_timer_overflow :
    (timerRow 0x05 0xFE 0xF0 0 12 0xFE 12 0x00 && timerRow 0x05 0xFE 0xF0 12 4 0xFF 0 0x00 &&
      timerRow 0x05 0xFF 0xF0 4 12 0xF0 0 0x04 && timerRow 0x05 0xFF 0xFF 0 24 0xFF 8 0x04 &&
      timerRow 0x05 0xFE 0x00 8 24 0x00 0 0x04 && timerRow 0x01 0xFF 0x00 0 24 0xFF 0 0x00) = true := by decide

/-- V112 to V116: the four periods, and a rate change with a count kept. -/
theorem test_timer_periods :
    (timerRow 0x04 0x00 0x00 1020 4 0x01 0 0x00 && timerRow 0x06 0x00 0x00 60 4 0x01 0 0x00 &&
      timerRow 0x07 0x00 0x00 252 4 0x01 0 0x00 && timerRow 0x05 0x00 0x00 15 4 0x01 3 0x00 &&
      timerRow 0x05 0x00 0x00 100 4 0x06 8 0x00) = true := by decide

/-- V110, V117 (its second step). -/
theorem test_divider : (timerAdvance 24 { State.reset with divc := 0xFFF0 }).divc = 0x0008 ∧
    stepsTo { prog 0x0103 [0x77] with h := 0xFF, l := 0x04, divc := 0xAB0C } (fun t => t.divc = 0x0008) = true := by decide

/-! ## Bus, section 2.10 -/

/-- What a load gives after a store. -/
def reads (s : State) (store : Word) (v : Byte) (load : Word) : Option Byte :=
  match store8 s store v with
  | .ok t => (load8 t load).toOption
  | .error _ => none

/-- V118 to V121, V127, V128, V130. -/
theorem test_store_then_load :
    reads State.reset 0xC010 0x42 0xE010 = some 0x42 ∧ reads State.reset 0xE020 0x07 0xC020 = some 0x07 ∧
    reads State.reset 0xFDFF 0x66 0xDDFF = some 0x66 ∧ reads State.reset 0xDE00 0x55 0xDE00 = some 0x55 ∧
    reads State.reset 0xFFFF 0xFF 0xFFFF = some 0xFF ∧ reads State.reset 0xFF0F 0xE5 0xFF0F = some 0xE5 ∧
    reads State.reset 0xFF80 0x01 0xFF80 = some 0x01 ∧ reads State.reset 0xFF07 0xFD 0xFF07 = some 0xFD := by decide

/-- V123, V124, V126. -/
theorem test_unmapped :
    ([0x0000, 0x3FFF, 0x4000, 0x7FFF, 0x8000, 0x9FFF, 0xFE00, 0xFE9F, 0xFEA0, 0xFEFF].all fun a =>
      (store8 State.reset a 0x00).toOption.isNone) = true ∧
    ([0x4000, 0x7FFF, 0x8000, 0x9FFF, 0xFE00, 0xFE9F, 0xFEA0, 0xFEFF].all fun a =>
      (load8 State.reset a).toOption.isNone) = true := by decide

/-- V122, V125. -/
theorem test_rom :
    (load8 (placeAll (placeAll State.reset 0x4000 [0xAA]) 0x7FFF [0xBB]) 0x4000).toOption = some 0xAA ∧
    (load8 (placeAll (placeAll State.reset 0x4000 [0xAA]) 0x7FFF [0xBB]) 0x7FFF).toOption = some 0xBB ∧
    (load8 (placeAll State.reset 0x3FFF [0xCC]) 0x3FFF).toOption = some 0xCC := by decide

/-- V131, V132: the default byte is a free value, so the load gives it whatever it is. -/
theorem test_io_default : load8 State.reset 0xFF00 = .ok Config.ioDefault ∧ load8 State.reset 0xFF7F = .ok Config.ioDefault ∧
    store8 State.reset 0xFF40 0x91 = .ok State.reset := ⟨rfl, rfl, rfl⟩

/-- V133, V134. -/
theorem test_load16 :
    (load16 (withBytes (withBytes State.reset 0xDFFF [0x11]) 0xC000 [0x22]) 0xDFFF).toOption = some 0x2211 ∧
    (load16 { State.reset with ie := 0x9A } 0xFFFF).toOption = some 0x009A := by decide

/-! ## Witnesses: states and operands that meet the hypotheses of each obligation -/

theorem stepsTo_next {s : State} {check : State → Bool} (h : stepsTo s check = true) :
    ∃ t, step s = .next t ∧ check t = true := by
  unfold stepsTo at h
  split at h
  · exact ⟨_, ‹_›, h⟩
  · simp at h

/-- The hypothesis of `FetchesOp opcode`. -/
def OpMet (opcode : Byte) : Prop := ∃ s : State, load8 s s.pc = .ok opcode

/-- The hypotheses of `FetchesByte opcode`, one clause each: the operand is read, its load is fatal. -/
def ByteMet (opcode : Byte) : Prop :=
  (∃ (s : State) (n : Byte), load8 s s.pc = .ok opcode ∧ load8 s (s.pc + 1) = .ok n) ∧
  (∃ (s : State) (f : Fault), load8 s s.pc = .ok opcode ∧ load8 s (s.pc + 1) = .error f)

/-- The hypotheses of `FetchesWord opcode`, one clause each. -/
def WordMet (opcode : Byte) : Prop :=
  (∃ (s : State) (lo hi : Byte), load8 s s.pc = .ok opcode ∧ load8 s (s.pc + 1) = .ok lo ∧ load8 s (s.pc + 2) = .ok hi) ∧
  (∃ (s : State) (f : Fault), load8 s s.pc = .ok opcode ∧ load8 s (s.pc + 1) = .error f) ∧
  (∃ (s : State) (lo : Byte) (f : Fault), load8 s s.pc = .ok opcode ∧ load8 s (s.pc + 1) = .ok lo ∧
    load8 s (s.pc + 2) = .error f)

/-- The hypotheses of `LoadsFrom` and `OnByteAtHl`: the address a register pair gives is mapped, is not. -/
def LoadMet (address : State → Word) : Prop :=
  (∃ s : State, LoadMapped s (address s)) ∧ ∃ s : State, ¬ LoadMapped s (address s)

/-- The hypotheses of `StoresTo`. -/
def StoreMet (address : State → Word) : Prop :=
  (∃ s : State, StoreMapped (address s)) ∧ ∃ s : State, ¬ StoreMapped (address s)

/-- The hypotheses of the three clauses of `PushOutcome`. -/
def PushMet : Prop :=
  (∃ s : State, StoreMapped (s.sp - 2) ∧ StoreMapped (s.sp - 2 + 1)) ∧ (∃ s : State, ¬ StoreMapped (s.sp - 2)) ∧
  ∃ s : State, StoreMapped (s.sp - 2) ∧ ¬ StoreMapped (s.sp - 2 + 1)

/-- The hypotheses of the three clauses of `PopOutcome`, in states that meet a condition. -/
def PopMet (condition : State → Prop) : Prop :=
  (∃ s : State, condition s ∧ LoadMapped s s.sp ∧ LoadMapped s (s.sp + 1)) ∧
  (∃ s : State, condition s ∧ ¬ LoadMapped s s.sp) ∧
  ∃ s : State, condition s ∧ LoadMapped s s.sp ∧ ¬ LoadMapped s (s.sp + 1)

/-- The mapped and unmapped addresses at the edges of the windows. -/
theorem witness_mapped_edges :
    (∀ a ∈ ([0x0000, 0x3FFF, 0xA000, 0xFDFF, 0xFF00, 0xFFFF] : List Word), LoadMapped State.reset a) ∧
    (∀ a ∈ ([0x4000, 0x7FFF, 0x8000, 0x9FFF, 0xFE00, 0xFEFF] : List Word), ¬ LoadMapped State.reset a) ∧
    (∀ a ∈ ([0xA000, 0xFDFF, 0xFF00, 0xFFFF] : List Word), StoreMapped a) ∧
    (∀ a ∈ ([0x0000, 0x9FFF, 0xFE00, 0xFEFF] : List Word), ¬ StoreMapped a) := by
  refine ⟨fun a ha => ?_, fun a ha => ?_, fun a ha => ?_, fun a ha => ?_⟩ <;>
    simp only [List.mem_cons, List.not_mem_nil, or_false] at ha
  · rcases ha with rfl | rfl | rfl | rfl | rfl | rfl <;> (unfold LoadMapped; decide)
  · rcases ha with rfl | rfl | rfl | rfl | rfl | rfl <;> (unfold LoadMapped; decide)
  · rcases ha with rfl | rfl | rfl | rfl <;> (unfold StoreMapped; decide)
  · rcases ha with rfl | rfl | rfl | rfl <;> (unfold StoreMapped; decide)

theorem loadMet_hl : LoadMet State.hl :=
  ⟨⟨{ State.reset with h := 0xA0, l := 0x00 }, witness_mapped_edges.1 0xA000 (by simp)⟩,
    ⟨{ State.reset with h := 0x9F, l := 0xFF }, witness_mapped_edges.2.1 0x9FFF (by simp)⟩⟩

theorem storeMet_hl : StoreMet State.hl :=
  ⟨⟨{ State.reset with h := 0xFD, l := 0xFF }, witness_mapped_edges.2.2.1 0xFDFF (by simp)⟩,
    ⟨{ State.reset with h := 0xFE, l := 0x00 }, witness_mapped_edges.2.2.2 0xFE00 (by simp)⟩⟩

theorem pushMet : PushMet := by
  refine ⟨⟨{ State.reset with sp := 0xFFFE }, ?_⟩, ⟨{ State.reset with sp := 0x4000 }, ?_⟩, ⟨{ State.reset with sp := 0x0001 }, ?_⟩⟩ <;>
    unfold StoreMapped <;> decide

theorem popMet (flags : Flags) : PopMet (fun s => s.flags = flags) := by
  refine ⟨⟨{ State.reset with sp := 0xFFFC, flags := flags }, rfl, ?_⟩, ⟨{ State.reset with sp := 0x8000, flags := flags }, rfl, ?_⟩,
    ⟨{ State.reset with sp := 0xFDFF, flags := flags }, rfl, ?_⟩⟩
  · exact ⟨by simp [LoadMapped], by simp [LoadMapped]⟩
  · simp [LoadMapped]
  · exact ⟨by simp [LoadMapped], by simp [LoadMapped]⟩

theorem willFetch_prog (s : State) (h : s.halted = false) (hr : s.ie &&& s.iflag = 0) : WillFetch s := by
  refine .inl ⟨?_, ?_⟩
  · have : (updateCountdowns s).ie = s.ie ∧ (updateCountdowns s).iflag = s.iflag := by
      simp only [updateCountdowns, countEnable, countDisable]
      cases s.diCnt <;> cases s.eiCnt <;> exact ⟨rfl, rfl⟩
    rw [State.ready, this.1, this.2, hr]
  · have : (updateCountdowns s).halted = s.halted := by
      simp only [updateCountdowns, countEnable, countDisable]
      cases s.diCnt <;> cases s.eiCnt <;> rfl
    rw [this, h]

theorem witness_EncodeOfDecode : decode [0xC3, 0x20, 0x01, 0x76] = .ok (.jp_nn 0x0120, [0x76]) := rfl

theorem witness_UndefinedOpcodesAreFatal : ∃ s : State, WillFetch s ∧ 0xD3 ∈ undefinedOpcodes ∧
    load8 (fetchState s) s.pc = .ok 0xD3 :=
  ⟨prog 0x0100 [0xD3], willFetch_prog _ rfl rfl, by decide, rfl⟩

theorem witness_LoadRegisterFromRegister : OpMet 0x41 := ⟨prog 0x0100 [0x41], rfl⟩

theorem witness_LoadRegisterFromByteAtHl : OpMet 0x7E ∧ LoadMet State.hl := ⟨⟨prog 0x0100 [0x7E], rfl⟩, loadMet_hl⟩

theorem witness_StoreRegisterAtHl : OpMet 0x77 ∧ StoreMet State.hl := ⟨⟨prog 0x0100 [0x77], rfl⟩, storeMet_hl⟩

theorem witness_LoadAThroughPair : OpMet 0x0A ∧ OpMet 0x1A ∧ LoadMet State.bc ∧ LoadMet State.de :=
  ⟨⟨prog 0x0100 [0x0A], rfl⟩, ⟨prog 0x0100 [0x1A], rfl⟩,
    ⟨⟨{ State.reset with b := 0x3F, c := 0xFF }, witness_mapped_edges.1 0x3FFF (by simp)⟩,
      ⟨{ State.reset with b := 0x40, c := 0x00 }, witness_mapped_edges.2.1 0x4000 (by simp)⟩⟩,
    ⟨⟨{ State.reset with d := 0xFF, e := 0x00 }, witness_mapped_edges.1 0xFF00 (by simp)⟩,
      ⟨{ State.reset with d := 0xFE, e := 0xFF }, witness_mapped_edges.2.1 0xFEFF (by simp)⟩⟩⟩

theorem witness_StoreAThroughPair : OpMet 0x02 ∧ OpMet 0x12 ∧ StoreMet State.bc ∧ StoreMet State.de :=
  ⟨⟨prog 0x0100 [0x02], rfl⟩, ⟨prog 0x0100 [0x12], rfl⟩,
    ⟨⟨{ State.reset with b := 0xA0, c := 0x00 }, witness_mapped_edges.2.2.1 0xA000 (by simp)⟩,
      ⟨{ State.reset with b := 0x9F, c := 0xFF }, witness_mapped_edges.2.2.2 0x9FFF (by simp)⟩⟩,
    ⟨⟨{ State.reset with d := 0xFF, e := 0xFF }, witness_mapped_edges.2.2.1 0xFFFF (by simp)⟩,
      ⟨{ State.reset with d := 0xFE, e := 0xFF }, witness_mapped_edges.2.2.2 0xFEFF (by simp)⟩⟩⟩

theorem witness_LoadRegisterImmediate : ByteMet 0x06 :=
  ⟨⟨prog 0x0100 [0x06, 0x5A], 0x5A, rfl, rfl⟩, ⟨prog 0x3FFF [0x06], .unmapped 0x4000 .load, rfl, rfl⟩⟩

theorem witness_StoreImmediateAtHl : ByteMet 0x36 ∧ StoreMet State.hl :=
  ⟨⟨⟨prog 0x0100 [0x36, 0x5A], 0x5A, rfl, rfl⟩, ⟨prog 0x3FFF [0x36], .unmapped 0x4000 .load, rfl, rfl⟩⟩, storeMet_hl⟩

theorem witness_LoadPairImmediate : WordMet 0x21 :=
  ⟨⟨prog 0x0100 [0x21, 0x00, 0xC0], 0x00, 0xC0, rfl, rfl, rfl⟩, ⟨prog 0x3FFF [0x21], .unmapped 0x4000 .load, rfl, rfl⟩,
    ⟨prog 0x3FFE [0x21, 0x00], 0x00, .unmapped 0x4000 .load, rfl, rfl, rfl⟩⟩

theorem witness_LoadSpFromHl : OpMet 0xF9 := ⟨prog 0x0100 [0xF9], rfl⟩

theorem witness_AddWritesSumAndFlags : OpMet 0x80 ∧ OpMet 0x86 ∧ ByteMet 0xC6 ∧ LoadMet State.hl :=
  ⟨⟨prog 0x0100 [0x80], rfl⟩, ⟨prog 0x0100 [0x86], rfl⟩,
    ⟨⟨prog 0x0100 [0xC6, 0x01], 0x01, rfl, rfl⟩, ⟨prog 0x3FFF [0xC6], .unmapped 0x4000 .load, rfl, rfl⟩⟩, loadMet_hl⟩

theorem witness_SubtractWritesDifferenceAndFlags : OpMet 0x90 ∧ OpMet 0x96 ∧ ByteMet 0xD6 ∧ LoadMet State.hl :=
  ⟨⟨prog 0x0100 [0x90], rfl⟩, ⟨prog 0x0100 [0x96], rfl⟩,
    ⟨⟨prog 0x0100 [0xD6, 0x01], 0x01, rfl, rfl⟩, ⟨prog 0x3FFF [0xD6], .unmapped 0x4000 .load, rfl, rfl⟩⟩, loadMet_hl⟩

theorem witness_CompareWritesOnlyFlags : OpMet 0xB8 ∧ OpMet 0xBE ∧ ByteMet 0xFE ∧ LoadMet State.hl :=
  ⟨⟨prog 0x0100 [0xB8], rfl⟩, ⟨prog 0x0100 [0xBE], rfl⟩,
    ⟨⟨prog 0x0100 [0xFE, 0x01], 0x01, rfl, rfl⟩, ⟨prog 0x3FFF [0xFE], .unmapped 0x4000 .load, rfl, rfl⟩⟩, loadMet_hl⟩

theorem witness_XorWritesResultAndClearsFlags : OpMet 0xA8 ∧ OpMet 0xAE ∧ ByteMet 0xEE ∧ LoadMet State.hl :=
  ⟨⟨prog 0x0100 [0xA8], rfl⟩, ⟨prog 0x0100 [0xAE], rfl⟩,
    ⟨⟨prog 0x0100 [0xEE, 0x01], 0x01, rfl, rfl⟩, ⟨prog 0x3FFF [0xEE], .unmapped 0x4000 .load, rfl, rfl⟩⟩, loadMet_hl⟩

theorem witness_PushStoresPairBelowSp : OpMet 0xC5 ∧ PushMet := ⟨⟨prog 0x0100 [0xC5], rfl⟩, pushMet⟩

theorem witness_CallPushesReturnAddress : WordMet 0xCD ∧ PushMet :=
  ⟨⟨⟨prog 0x0100 [0xCD, 0x00, 0x02], 0x00, 0x02, rfl, rfl, rfl⟩, ⟨prog 0x3FFF [0xCD], .unmapped 0x4000 .load, rfl, rfl⟩,
    ⟨prog 0x3FFE [0xCD, 0x00], 0x00, .unmapped 0x4000 .load, rfl, rfl, rfl⟩⟩, pushMet⟩

theorem witness_RestartPushesAndJumpsToVector : OpMet 0xEF ∧ PushMet := ⟨⟨prog 0x0100 [0xEF], rfl⟩, pushMet⟩

theorem witness_ReturnPopsPc : OpMet 0xC9 ∧ PopMet (fun s => s.flags = State.reset.flags) :=
  ⟨⟨prog 0x0100 [0xC9], rfl⟩, popMet _⟩

/-- Every condition holds in some state (with every clause of the pop met) and fails in another. -/
theorem witness_ConditionalReturn : OpMet 0xD0 ∧ ∀ cc, PopMet (CondHolds cc) ∧ ∃ s, ¬ CondHolds cc s := by
  refine ⟨⟨prog 0x0100 [0xD0], rfl⟩, fun cc => ?_⟩
  have weaken : ∀ flags, (∀ s : State, s.flags = flags → CondHolds cc s) → PopMet (CondHolds cc) := fun flags h =>
    let ⟨⟨s1, a1, b1⟩, ⟨s2, a2, b2⟩, ⟨s3, a3, b3⟩⟩ := popMet flags
    ⟨⟨s1, h s1 a1, b1⟩, ⟨s2, h s2 a2, b2⟩, ⟨s3, h s3 a3, b3⟩⟩
  have set : ∀ s : State, s.flags = ⟨true, false, false, true⟩ → s.flags.z = true ∧ s.flags.c = true := fun s h => by rw [h]; simp
  have clear : ∀ s : State, s.flags = ⟨false, true, true, false⟩ → s.flags.z = false ∧ s.flags.c = false := fun s h => by rw [h]; simp
  cases cc with
  | nz => exact ⟨weaken _ fun s h => (clear s h).1, State.reset, by simp [CondHolds, State.reset, State.powerOn, CoreState.powerOn]⟩
  | z => exact ⟨weaken _ fun s h => (set s h).1, { State.reset with flags := ⟨false, false, false, false⟩ }, by simp [CondHolds]⟩
  | nc => exact ⟨weaken _ fun s h => (clear s h).2, State.reset, by simp [CondHolds, State.reset, State.powerOn, CoreState.powerOn]⟩
  | c => exact ⟨weaken _ fun s h => (set s h).2, { State.reset with flags := ⟨false, false, false, false⟩ }, by simp [CondHolds]⟩

/-- The lowest two bytes of external RAM, and the two of high RAM the first push after reset writes. -/
theorem witness_CallReturnRoundTrip : ∀ sp ∈ ([0xA002, 0xFFFE] : List Word), ∀ a : Word, (a = sp - 2 ∨ a = sp - 2 + 1) →
    (0xA000 ≤ a.toNat ∧ a.toNat < 0xFE00) ∨ (0xFF80 ≤ a.toNat ∧ a.toNat < 0xFFFF) := by
  intro sp hsp a ha
  simp only [List.mem_cons, List.not_mem_nil, or_false] at hsp
  rcases hsp with rfl | rfl <;> rcases ha with rfl | rfl <;> decide

theorem witness_RelativeJump : ByteMet 0x18 :=
  ⟨⟨prog 0x0100 [0x18, 0x80], 0x80, rfl, rfl⟩, ⟨prog 0x3FFF [0x18], .unmapped 0x4000 .load, rfl, rfl⟩⟩

theorem witness_ConditionalRelativeJump : ByteMet 0x20 ∧ ∀ cc, (∃ s, CondHolds cc s) ∧ ∃ s, ¬ CondHolds cc s :=
  ⟨⟨⟨prog 0x0100 [0x20, 0x7F], 0x7F, rfl, rfl⟩, ⟨prog 0x3FFF [0x20], .unmapped 0x4000 .load, rfl, rfl⟩⟩,
    fun cc => ⟨let ⟨⟨s, h, _⟩, _⟩ := (witness_ConditionalReturn.2 cc).1; ⟨s, h⟩, (witness_ConditionalReturn.2 cc).2⟩⟩

theorem witness_AbsoluteJumps : WordMet 0xC3 ∧ OpMet 0xE9 :=
  ⟨⟨⟨prog 0x0100 [0xC3, 0x20, 0x01], 0x20, 0x01, rfl, rfl, rfl⟩, ⟨prog 0x3FFF [0xC3], .unmapped 0x4000 .load, rfl, rfl⟩,
    ⟨prog 0x3FFE [0xC3, 0x00], 0x00, .unmapped 0x4000 .load, rfl, rfl, rfl⟩⟩, ⟨prog 0x0100 [0xE9], rfl⟩⟩

theorem witness_TogglesArmCountdowns : OpMet 0xF3 ∧ OpMet 0xFB ∧ State.reset.eiCnt ≠ .one ∧ State.reset.eiCnt = .idle ∧
    State.reset.diCnt ≠ .one :=
  ⟨⟨prog 0x0100 [0xF3], rfl⟩, ⟨prog 0x0100 [0xFB], rfl⟩, by decide, rfl, by decide⟩

theorem witness_HaltOnlySetsHalted : OpMet 0x76 := ⟨prog 0x0100 [0x76], rfl⟩

theorem witness_PrefixByteIsFatal : OpMet 0xCB ∧ ∃ s : State, WillFetch s ∧ load8 (fetchState s) s.pc = .ok 0xCB :=
  ⟨⟨prog 0x0100 [0xCB], rfl⟩, prog 0x0100 [0xCB], willFetch_prog _ rfl rfl, rfl⟩

/-- Both ends of every range of the map; the ROM bank with an image that holds it and with one that does not. -/
theorem witness_LoadsByWindow :
    ((0x0000 : Word).toNat ≤ 0x3FFF ∧ (0x3FFF : Word).toNat ≤ 0x3FFF) ∧
    ((0x4000 : Word).toNat < (placeAll State.reset 0x7FFF [0xBB]).romLen ∧
      (0x7FFF : Word).toNat < (placeAll State.reset 0x7FFF [0xBB]).romLen) ∧
    (State.reset.romLen ≤ (0x4000 : Word).toNat ∧ State.reset.romLen ≤ (0x7FFF : Word).toNat) ∧
    (0x8000 ≤ (0x8000 : Word).toNat ∧ (0x9FFF : Word).toNat ≤ 0x9FFF) ∧
    (0xA000 ≤ (0xA000 : Word).toNat ∧ (0xDFFF : Word).toNat ≤ 0xDFFF) ∧
    (0xE000 ≤ (0xE000 : Word).toNat ∧ (0xFDFF : Word).toNat ≤ 0xFDFF) ∧
    (0xFE00 ≤ (0xFE00 : Word).toNat ∧ (0xFEFF : Word).toNat ≤ 0xFEFF) ∧
    (0xFF80 ≤ (0xFF80 : Word).toNat ∧ (0xFFFE : Word).toNat ≤ 0xFFFE) ∧ (0xFFFF : Word).toNat = 0xFFFF := by decide

theorem witness_StoresByWindow :
    ((0x0000 : Word).toNat ≤ 0x9FFF ∧ (0x9FFF : Word).toNat ≤ 0x9FFF) ∧
    (0xA000 ≤ (0xA000 : Word).toNat ∧ (0xDFFF : Word).toNat ≤ 0xDFFF) ∧
    (0xE000 ≤ (0xE000 : Word).toNat ∧ (0xFDFF : Word).toNat ≤ 0xFDFF) ∧
    (0xFE00 ≤ (0xFE00 : Word).toNat ∧ (0xFEFF : Word).toNat ≤ 0xFEFF) ∧
    (0xFF80 ≤ (0xFF80 : Word).toNat ∧ (0xFFFE : Word).toNat ≤ 0xFFFE) ∧ (0xFFFF : Word).toNat = 0xFFFF := by decide

theorem witness_EchoAliasesWorkingRam : (0xE000 ≤ (0xE000 : Word).toNat ∧ (0xE000 : Word).toNat ≤ 0xFDFF) ∧
    (0xE000 ≤ (0xFDFF : Word).toNat ∧ (0xFDFF : Word).toNat ≤ 0xFDFF) := by decide

/-- The first and the last address of the I/O window, and the neighbours of handlers. -/
theorem witness_UnimplementedIoIsNotFatal :
    ∀ a ∈ ([0xFF00, 0xFF03, 0xFF08, 0xFF0E, 0xFF10, 0xFF7F] : List Word), UnimplementedIo a := by
  intro a ha
  simp only [List.mem_cons, List.not_mem_nil, or_false] at ha
  rcases ha with rfl | rfl | rfl | rfl | rfl | rfl <;> (unfold UnimplementedIo; decide)

/-- A store to RAM, to DIV, and to an address with no handler. -/
theorem witness_StoreThenLoad : ∀ a ∈ ([0xC010, 0xFF04, 0xFF40, 0xFFFF] : List Word),
    ∃ t, store8 State.reset a 0x42 = .ok t := by
  intro a ha
  simp only [List.mem_cons, List.not_mem_nil, or_false] at ha
  rcases ha with rfl | rfl | rfl | rfl <;> exact ⟨_, rfl⟩

/-- The five clauses: both loads, the first load fatal, the second, the first store, the first store fatal. -/
theorem witness_WordAccessesAreTwoBytes :
    (∃ lo hi, load8 State.reset 0xDFFF = .ok lo ∧ load8 State.reset (0xDFFF + 1) = .ok hi) ∧
    (∃ f, load8 State.reset 0x8000 = .error f) ∧
    (∃ lo f, load8 State.reset 0xFDFF = .ok lo ∧ load8 State.reset (0xFDFF + 1) = .error f) ∧
    (∃ t, store8 State.reset 0xFFFF ((0x1234 : Word).extractLsb' 0 8) = .ok t) ∧
    (∃ f, store8 State.reset 0x9FFE ((0x1234 : Word).extractLsb' 0 8) = .error f) :=
  ⟨⟨_, _, rfl, rfl⟩, ⟨_, rfl⟩, ⟨_, _, rfl, rfl⟩, ⟨_, rfl⟩, ⟨_, rfl⟩⟩

/-- An instruction that answers a next state, and one that is fatal. -/
theorem witness_StepRunsFetchedInstruction :
    (∃ s : State, WillFetch s ∧ BytesAt (fetchState s) s.pc (encode .ld_b_c) ∧
      ∃ t, exec .ld_b_c { fetchState s with pc := s.pc + 1 } = .next t) ∧
    (∃ s : State, WillFetch s ∧ BytesAt (fetchState s) s.pc (encode .ld__bc__a) ∧
      ∃ f, exec .ld__bc__a { fetchState s with pc := s.pc + 1 } = .fault f) :=
  ⟨⟨prog 0x0100 [0x41], willFetch_prog _ rfl rfl, ⟨rfl, trivial⟩, _, rfl⟩,
    ⟨prog 0x0100 [0x02], willFetch_prog _ rfl rfl, ⟨rfl, trivial⟩, _, rfl⟩⟩

theorem witness_FetchFromUnmappedIsFatal : ∃ s : State, WillFetch s ∧ ¬ LoadMapped (fetchState s) s.pc :=
  ⟨{ State.reset with pc := 0xFEA0 }, willFetch_prog _ rfl rfl, by unfold LoadMapped; decide⟩

theorem witness_HaltedStepIsIdle : ∃ s : State, s.halted = true ∧ s.ie &&& s.iflag = 0 :=
  ⟨{ State.reset with halted := true, ie := 0x01 }, rfl, rfl⟩

/-- The highest and the lowest priority; the three clauses of the push are those of `pushMet`. -/
theorem witness_DispatchEntersVector : ∀ row ∈ ([(0, 0x01), (4, 0x30)] : List (Nat × Byte)),
    ∀ sp ∈ ([0xFFFE, 0x4000, 0x0001] : List Word),
    let u := updateCountdowns { State.reset with ime := true, ie := 0x3F, iflag := row.2, sp := sp }
    u.ime = true ∧ row.1 < 5 ∧ (u.ie &&& u.iflag).getLsbD row.1 = true ∧
      (∀ m, m < row.1 → (u.ie &&& u.iflag).getLsbD m = false) := by
  intro row hrow sp hsp
  simp only [List.mem_cons, List.not_mem_nil, or_false] at hrow hsp
  rcases hrow with rfl | rfl <;> rcases hsp with rfl | rfl | rfl <;> decide

theorem witness_WakeWithoutDispatch : ∃ s : State, s.halted = true ∧ s.ie &&& s.iflag ≠ 0 ∧ (updateCountdowns s).ime = false :=
  ⟨{ State.reset with halted := true, ie := 0x01, iflag := 0x01 }, rfl, by decide, rfl⟩

theorem witness_UndefinedLineIsFatal : ∀ row ∈ ([(5, 0x20), (7, 0x80)] : List (Nat × Byte)),
    let u := updateCountdowns { State.reset with ime := true, ie := 0xE0, iflag := row.2 }
    u.ime = true ∧ 5 ≤ row.1 ∧ row.1 < 8 ∧ (u.ie &&& u.iflag).getLsbD row.1 = true ∧
      (∀ m, m < row.1 → (u.ie &&& u.iflag).getLsbD m = false) := by
  intro row hrow
  simp only [List.mem_cons, List.not_mem_nil, or_false] at hrow
  rcases hrow with rfl | rfl <;> decide

theorem witness_LowestReadyLineWins : lowestLine 0x06 = some 1 ∧ lowestLine 0x80 = some 7 := by decide

/-- The step after `ei` runs another instruction, and one that is `ei` again. -/
theorem witness_EnableActsOneInstructionLate :
    (∃ s t : State, s.ime = false ∧ s.eiCnt = .two ∧ step s = .next t ∧ t.eiCnt = .one) ∧
    (∃ s t : State, s.ime = false ∧ s.eiCnt = .two ∧ step s = .next t ∧ t.eiCnt = .two) := by
  obtain ⟨t, h, ht⟩ := stepsTo_next (s := { prog 0x0100 [0x40] with eiCnt := .two }) (check := fun t => t.eiCnt = .one) (by decide)
  obtain ⟨t', h', ht'⟩ := stepsTo_next (s := { prog 0x0100 [0xFB] with eiCnt := .two }) (check := fun t => t.eiCnt = .two) (by decide)
  exact ⟨⟨_, t, rfl, rfl, h, by simpa using ht⟩, ⟨_, t', rfl, rfl, h', by simpa using ht'⟩⟩

/-- The four clauses, the second and the third one cycle apart. -/
theorem witness_CounterLoop :
    PeriodOf 0x01 16 ∧ PeriodOf 0x05 16 ∧ PeriodOf 0x04 1024 ∧ PeriodOf 0x06 64 ∧ PeriodOf 0x07 256 ∧
    (0x01 : Byte).getLsbD 2 = false ∧ (0x05 : Byte).getLsbD 2 = true ∧ 3 + 12 < 16 ∧ 16 ≤ 4 + 12 ∧
    (∃ s : State, s.tima = 0xFF) ∧ (∃ s : State, s.tima ≠ 0xFF) := by
  unfold PeriodOf
  exact ⟨by decide, by decide, by decide, by decide, by decide, by decide, by decide, by decide, by decide,
    ⟨{ State.reset with tima := 0xFF }, rfl⟩, State.reset, by decide⟩

theorem witness_InputsSetPendingBits :
    (∃ s : State, s.irqIn = []) ∧ ∃ (s : State) (i : IrqIn) (rest : List IrqIn), s.irqIn = i :: rest :=
  ⟨⟨State.reset, rfl⟩,
    { State.reset with irqIn := [⟨true, false, false, true⟩] }, ⟨true, false, false, true⟩, [], rfl⟩

/-- A store to RAM and cycles counted toward a tick, in one step from a state that meets the invariant. -/
theorem witness_StepKeepsInvariant : ∃ s t : State, State.Inv s ∧ step s = .next t ∧ t.mem ≠ s.mem ∧ t.timaAcc ≠ s.timaAcc := by
  have hinv : State.Inv { prog 0x0100 [0x77] with h := 0xC0, l := 0x00, tac := 0x05 } := by decide
  obtain ⟨t, h, ht⟩ := stepsTo_next (s := { prog 0x0100 [0x77] with h := 0xC0, l := 0x00, tac := 0x05 })
    (check := fun t => t.mem = [(0xC000, 0x01)] && t.timaAcc = 8) (by decide)
  simp only [Bool.and_eq_true, decide_eq_true_eq] at ht
  refine ⟨_, t, hinv, h, ?_, ?_⟩
  · rw [ht.1]; decide
  · rw [ht.2]; decide

/-- A step that takes an input, an instruction, and two states that differ only in the inputs after the next. -/
theorem witness_StepKeepsParameters :
    let input : IrqIn := ⟨true, false, false, false⟩
    (∃ s t : State, s.irqIn = [input] ∧ step s = .next t) ∧ (∃ t : State, exec .ld_b_c State.reset = .next t) ∧
    ∃ s u t : State, u.irqIn ≠ s.irqIn ∧ u.toCoreState = s.toCoreState ∧ u.params = s.params ∧ u.input = s.input ∧
      step s = .next t := by
  obtain ⟨t, h, -⟩ := stepsTo_next (s := { prog 0x0100 [0x41] with irqIn := [⟨true, false, false, false⟩] })
    (check := fun _ => true) (by decide)
  exact ⟨⟨_, t, rfl, h⟩, ⟨_, rfl⟩,
    { prog 0x0100 [0x41] with irqIn := [⟨true, false, false, false⟩] },
    { prog 0x0100 [0x41] with irqIn := [⟨true, false, false, false⟩, ⟨false, true, false, false⟩] }, t,
    by decide, rfl, rfl, rfl, h⟩

theorem witness_OnlyAluWritesFlags : ∃ t : State, exec .add_a_b State.reset = .next t ∧ t.flags ≠ State.reset.flags :=
  ⟨addA State.reset.b State.reset, rfl, by decide⟩

/-- IME set by the expiry of `ei_cnt`; cleared by that of `di_cnt`. -/
theorem witness_ImeChangesOnlyByCountdownOrDispatch :
    (∃ s t : State, step s = .next t ∧ s.ime = false ∧ t.ime = true) ∧
    (∃ s t : State, step s = .next t ∧ s.ime = true ∧ t.ime = false) := by
  obtain ⟨t, h, ht⟩ := stepsTo_next (s := { prog 0x0100 [0x40] with eiCnt := .one }) (check := fun t => t.ime) (by decide)
  obtain ⟨t', h', ht'⟩ := stepsTo_next (s := { prog 0x0100 [0x40] with ime := true, diCnt := .one }) (check := fun t => !t.ime)
    (by decide)
  exact ⟨⟨_, t, h, rfl, ht⟩, ⟨_, t', h', rfl, by simpa using ht'⟩⟩

theorem witness_HaltedChangesOnlyByHaltOrWake :
    (∃ s t : State, step s = .next t ∧ s.halted = false ∧ t.halted = true) ∧
    (∃ s t : State, step s = .next t ∧ s.halted = true ∧ t.halted = false) ∧
    (∃ s t : State, step s = .next t ∧ s.halted = true ∧ s.ie &&& s.iflag = 0) := by
  obtain ⟨t, h, ht⟩ := stepsTo_next (s := prog 0x0100 [0x76]) (check := fun t => t.halted) (by decide)
  obtain ⟨t', h', ht'⟩ := stepsTo_next (s := { prog 0x0100 [0x40] with halted := true, ie := 0x01, iflag := 0x01 })
    (check := fun t => !t.halted) (by decide)
  obtain ⟨t'', h'', _⟩ := stepsTo_next (s := { State.reset with halted := true }) (check := fun _ => true) (by decide)
  exact ⟨⟨_, t, h, rfl, ht⟩, ⟨_, t', h', rfl, by simpa using ht'⟩, ⟨_, t'', h'', rfl, rfl⟩⟩

theorem witness_FormsThatStoreNothingLeaveMemory : ∃ (i : Instr) (s t : State), exec i s = .next t ∧
    (∀ r, i ≠ Instr.ldAtHlReg r) ∧ (∀ n, i ≠ .ld__hl__n n) ∧ i ≠ .ld__bc__a ∧ i ≠ .ld__de__a ∧
    (∀ p, i ≠ Instr.pushPair p) ∧ (∀ nn, i ≠ .call_nn nn) ∧ (∀ k, i ≠ Instr.rstTarget k) :=
  ⟨.ld_b_c, State.reset, _, rfl, fun r => by cases r <;> decide, fun n h => (by cases h), by decide, by decide,
    fun p => by cases p <;> decide, fun nn h => (by cases h), by decide⟩

theorem witness_EndedProgramStaysEnded : ∃ s : State, s.ended := ⟨{ State.reset with halted := true }, rfl, rfl⟩

end Sys2Proof.Tests
end

