-- ==== Sys2Proof/Proofs/Parameters.lean ====
section
/-! The parameters and the inputs beside the machine (spec/00_scope.md R5, spec/10_state.md R36): what `step` and `exec` make
of them. -/

namespace Sys2Proof.Machine

/-- A step answers next exactly when the machine's own step does, and what it answers is the machine stepped, with the
parameters handed on and the first input taken (log 1). -/
theorem step_eq_next_iff {s t : State} :
    step s = .next t ↔ ∃ m, s.toCoreState.step s.params s.input = .next m ∧
      { toCoreState := m, irqIn := s.irqIn.tail, params := s.params } = t := by
  unfold step drive
  cases s.toCoreState.step s.params s.input <;> simp

theorem step_params_irqIn {s t : State} (h : step s = .next t) : t.params = s.params ∧ t.irqIn = s.irqIn.tail := by
  obtain ⟨m, -, rfl⟩ := step_eq_next_iff.1 h
  exact ⟨rfl, rfl⟩

/-- None of the changes an instruction can be (`Change`) touches the arguments. -/
theorem exec_params_irqIn {i : Instr} {s t : State} (h : exec i s = .next t) :
    t.params = s.params ∧ t.irqIn = s.irqIn := by
  obtain ⟨-, -, hinputs, hparams⟩ := (exec_change h).frame
  exact ⟨hparams, hinputs⟩

/-- R36 for two runs: they may differ in the inputs after the next, of which the machine's own step is given none. -/
theorem step_toCoreState_congr {s u t : State} (hm : u.toCoreState = s.toCoreState) (hp : u.params = s.params)
    (hi : u.input = s.input) (h : step s = .next t) : ∃ w, step u = .next w ∧ w.toCoreState = t.toCoreState := by
  obtain ⟨m, hstep, rfl⟩ := step_eq_next_iff.1 h
  rw [← hm, ← hp, ← hi] at hstep
  exact ⟨_, step_eq_next_iff.2 ⟨m, hstep, rfl⟩, rfl⟩

/-- Settles O55: parameters and inputs stand outside the machine's own step, and no instruction's change touches them. -/
theorem stepKeepsParameters : Obligations.StepKeepsParameters :=
  ⟨fun _ _ => step_params_irqIn, fun _ _ _ => exec_params_irqIn, fun _ _ _ => step_toCoreState_congr⟩

end Sys2Proof.Machine
end

