-- ==== Sys2Proof/Proofs/Forms.lean ====
section
/-! The rows of one pattern taken together (spec/30_encoding.md R108): every instruction is of one of 27 forms, and an
equation gives the meaning of each form that stands for several rows. A fact about all instructions is proved form by form. -/

namespace Sys2Proof

/-- The four operations of the ALU rows. -/
inductive AluOp where
  | add | sub | cp | xor

namespace AluOp

/-- The row of the operation with a register operand. -/
def reg (op : AluOp) (r : Reg8) : Instr :=
  match op with
  | .add => .addReg r
  | .sub => .subReg r
  | .cp => .cpReg r
  | .xor => .xorReg r

/-- The row of the operation with the byte at HL as its operand. -/
def atHl (op : AluOp) : Instr :=
  match op with
  | .add => .add_a__hl
  | .sub => .sub_a__hl
  | .cp => .cp_a__hl
  | .xor => .xor_a__hl

/-- The row of the operation with an immediate operand. -/
def imm (op : AluOp) (n : Byte) : Instr :=
  match op with
  | .add => .add_a_n n
  | .sub => .sub_a_n n
  | .cp => .cp_a_n n
  | .xor => .xor_a_n n

/-- What the operation makes of the state, given its operand. -/
def apply (op : AluOp) (v : Byte) (s : Machine.State) : Machine.State :=
  match op with
  | .add => Machine.addA v s
  | .sub => Machine.subA v s
  | .cp => Machine.cpA v s
  | .xor => Machine.xorA v s

end AluOp

/-- The instruction is of one of the forms: a family at given operand codes, or a row that is a form of its own. -/
inductive Instr.Form : Instr → Prop where
  | ldReg (dst src : Reg8) : Form (Instr.ldReg dst src)
  | ldRegAtHl (dst : Reg8) : Form (Instr.ldRegAtHl dst)
  | ldAtHlReg (src : Reg8) : Form (Instr.ldAtHlReg src)
  | ldRegN (dst : Reg8) (n : Byte) : Form (Instr.ldRegN dst n)
  | ldPairNn (p : Pair) (nn : Word) : Form (Instr.ldPairNn p nn)
  | aluReg (op : AluOp) (src : Reg8) : Form (op.reg src)
  | aluAtHl (op : AluOp) : Form op.atHl
  | aluN (op : AluOp) (n : Byte) : Form (op.imm n)
  | pushPair (p : PushPair) : Form (Instr.pushPair p)
  | retCond (cc : Cond) : Form (Instr.retCond cc)
  | jrCond (cc : Cond) (e : Byte) : Form (Instr.jrCond cc e)
  | rstTarget (t : BitVec 3) : Form (Instr.rstTarget t)
  | ld__bc__a : Form .ld__bc__a
  | ld_a__bc : Form .ld_a__bc
  | ld__de__a : Form .ld__de__a
  | ld_a__de : Form .ld_a__de
  | ld__hl__n (n : Byte) : Form (.ld__hl__n n)
  | ld_sp_hl : Form .ld_sp_hl
  | jr_e (e : Byte) : Form (.jr_e e)
  | jp_nn (nn : Word) : Form (.jp_nn nn)
  | jp_hl : Form .jp_hl
  | ret : Form .ret
  | call_nn (nn : Word) : Form (.call_nn nn)
  | di : Form .di
  | ei : Form .ei
  | halt : Form .halt
  | prefix_0xCB : Form .prefix_0xCB

/-- Every row of spec/opcode_table.json by its form. -/
theorem Instr.form : ∀ i : Instr, i.Form
  | .ld_b_b => .ldReg .b .b | .ld_b_c => .ldReg .b .c | .ld_b_d => .ldReg .b .d | .ld_b_e => .ldReg .b .e
  | .ld_b_h => .ldReg .b .h | .ld_b_l => .ldReg .b .l | .ld_b_a => .ldReg .b .a
  | .ld_c_b => .ldReg .c .b | .ld_c_c => .ldReg .c .c | .ld_c_d => .ldReg .c .d | .ld_c_e => .ldReg .c .e
  | .ld_c_h => .ldReg .c .h | .ld_c_l => .ldReg .c .l | .ld_c_a => .ldReg .c .a
  | .ld_d_b => .ldReg .d .b | .ld_d_c => .ldReg .d .c | .ld_d_d => .ldReg .d .d | .ld_d_e => .ldReg .d .e
  | .ld_d_h => .ldReg .d .h | .ld_d_l => .ldReg .d .l | .ld_d_a => .ldReg .d .a
  | .ld_e_b => .ldReg .e .b | .ld_e_c => .ldReg .e .c | .ld_e_d => .ldReg .e .d | .ld_e_e => .ldReg .e .e
  | .ld_e_h => .ldReg .e .h | .ld_e_l => .ldReg .e .l | .ld_e_a => .ldReg .e .a
  | .ld_h_b => .ldReg .h .b | .ld_h_c => .ldReg .h .c | .ld_h_d => .ldReg .h .d | .ld_h_e => .ldReg .h .e
  | .ld_h_h => .ldReg .h .h | .ld_h_l => .ldReg .h .l | .ld_h_a => .ldReg .h .a
  | .ld_l_b => .ldReg .l .b | .ld_l_c => .ldReg .l .c | .ld_l_d => .ldReg .l .d | .ld_l_e => .ldReg .l .e
  | .ld_l_h => .ldReg .l .h | .ld_l_l => .ldReg .l .l | .ld_l_a => .ldReg .l .a
  | .ld_a_b => .ldReg .a .b | .ld_a_c => .ldReg .a .c | .ld_a_d => .ldReg .a .d | .ld_a_e => .ldReg .a .e
  | .ld_a_h => .ldReg .a .h | .ld_a_l => .ldReg .a .l | .ld_a_a => .ldReg .a .a
  | .ld_b__hl => .ldRegAtHl .b | .ld_c__hl => .ldRegAtHl .c | .ld_d__hl => .ldRegAtHl .d | .ld_e__hl => .ldRegAtHl .e
  | .ld_h__hl => .ldRegAtHl .h | .ld_l__hl => .ldRegAtHl .l | .ld_a__hl => .ldRegAtHl .a
  | .ld__hl__b => .ldAtHlReg .b | .ld__hl__c => .ldAtHlReg .c | .ld__hl__d => .ldAtHlReg .d
  | .ld__hl__e => .ldAtHlReg .e | .ld__hl__h => .ldAtHlReg .h | .ld__hl__l => .ldAtHlReg .l
  | .ld__hl__a => .ldAtHlReg .a
  | .ld_b_n n => .ldRegN .b n | .ld_c_n n => .ldRegN .c n | .ld_d_n n => .ldRegN .d n | .ld_e_n n => .ldRegN .e n
  | .ld_h_n n => .ldRegN .h n | .ld_l_n n => .ldRegN .l n | .ld_a_n n => .ldRegN .a n
  | .ld_bc_nn nn => .ldPairNn .bc nn | .ld_de_nn nn => .ldPairNn .de nn | .ld_hl_nn nn => .ldPairNn .hl nn
  | .ld_sp_nn nn => .ldPairNn .sp nn
  | .add_a_b => .aluReg .add .b | .add_a_c => .aluReg .add .c | .add_a_d => .aluReg .add .d
  | .add_a_e => .aluReg .add .e | .add_a_h => .aluReg .add .h | .add_a_l => .aluReg .add .l
  | .add_a_a => .aluReg .add .a
  | .add_a__hl => .aluAtHl .add | .add_a_n n => .aluN .add n
  | .sub_a_b => .aluReg .sub .b | .sub_a_c => .aluReg .sub .c | .sub_a_d => .aluReg .sub .d
  | .sub_a_e => .aluReg .sub .e | .sub_a_h => .aluReg .sub .h | .sub_a_l => .aluReg .sub .l
  | .sub_a_a => .aluReg .sub .a
  | .sub_a__hl => .aluAtHl .sub | .sub_a_n n => .aluN .sub n
  | .cp_a_b => .aluReg .cp .b | .cp_a_c => .aluReg .cp .c | .cp_a_d => .aluReg .cp .d | .cp_a_e => .aluReg .cp .e
  | .cp_a_h => .aluReg .cp .h | .cp_a_l => .aluReg .cp .l | .cp_a_a => .aluReg .cp .a
  | .cp_a__hl => .aluAtHl .cp | .cp_a_n n => .aluN .cp n
  | .xor_a_b => .aluReg .xor .b | .xor_a_c => .aluReg .xor .c | .xor_a_d => .aluReg .xor .d
  | .xor_a_e => .aluReg .xor .e | .xor_a_h => .aluReg .xor .h | .xor_a_l => .aluReg .xor .l
  | .xor_a_a => .aluReg .xor .a
  | .xor_a__hl => .aluAtHl .xor | .xor_a_n n => .aluN .xor n
  | .push_bc => .pushPair .bc | .push_de => .pushPair .de | .push_hl => .pushPair .hl | .push_af => .pushPair .af
  | .ret_nz => .retCond .nz | .ret_z => .retCond .z | .ret_nc => .retCond .nc | .ret_c => .retCond .c
  | .jr_nz_e e => .jrCond .nz e | .jr_z_e e => .jrCond .z e | .jr_nc_e e => .jrCond .nc e | .jr_c_e e => .jrCond .c e
  | .rst_0x00 => .rstTarget 0 | .rst_0x08 => .rstTarget 1 | .rst_0x10 => .rstTarget 2 | .rst_0x18 => .rstTarget 3
  | .rst_0x20 => .rstTarget 4 | .rst_0x28 => .rstTarget 5 | .rst_0x30 => .rstTarget 6 | .rst_0x38 => .rstTarget 7
  | .ld__bc__a => .ld__bc__a | .ld_a__bc => .ld_a__bc | .ld__de__a => .ld__de__a | .ld_a__de => .ld_a__de
  | .ld__hl__n n => .ld__hl__n n | .ld_sp_hl => .ld_sp_hl
  | .jr_e e => .jr_e e | .jp_nn nn => .jp_nn nn | .jp_hl => .jp_hl | .ret => .ret | .call_nn nn => .call_nn nn
  | .di => .di | .ei => .ei | .halt => .halt | .prefix_0xCB => .prefix_0xCB

/-! ## The meaning of each form -/

namespace Machine

section Families

variable (s : State)

@[simp] theorem exec_ldReg (dst src : Reg8) : exec (.ldReg dst src) s = loadRegReg dst src s := by
  cases dst <;> cases src <;> rfl

@[simp] theorem exec_ldRegAtHl (dst : Reg8) : exec (.ldRegAtHl dst) s = loadRegMem dst s.hl s := by cases dst <;> rfl

@[simp] theorem exec_ldAtHlReg (src : Reg8) : exec (.ldAtHlReg src) s = storeMem s.hl (s.reg8 src) s := by
  cases src <;> rfl

@[simp] theorem exec_ldRegN (dst : Reg8) (n : Byte) : exec (.ldRegN dst n) s = loadRegImm dst n s := by
  cases dst <;> rfl

@[simp] theorem exec_ldPairNn (p : Pair) (nn : Word) : exec (.ldPairNn p nn) s = loadPairImm p nn s := by
  cases p <;> rfl

@[simp] theorem exec_aluReg (op : AluOp) (src : Reg8) : exec (op.reg src) s = .next (op.apply (s.reg8 src) s) := by
  cases op <;> cases src <;> rfl

@[simp] theorem exec_aluAtHl (op : AluOp) : exec op.atHl s = withByteAtHl op.apply s := by cases op <;> rfl

@[simp] theorem exec_aluN (op : AluOp) (n : Byte) : exec (op.imm n) s = .next (op.apply n s) := by cases op <;> rfl

@[simp] theorem exec_pushPair (p : PushPair) : exec (.pushPair p) s = pushPairOp p s := by cases p <;> rfl

@[simp] theorem exec_retCond (cc : Cond) : exec (.retCond cc) s = retIf cc s := by cases cc <;> rfl

@[simp] theorem exec_jrCond (cc : Cond) (e : Byte) : exec (.jrCond cc e) s = jrIf cc e s := by cases cc <;> rfl

@[simp] theorem exec_rstTarget (t : BitVec 3) : exec (.rstTarget t) s = rstTo t s := by
  have ht : t = 0 ∨ t = 1 ∨ t = 2 ∨ t = 3 ∨ t = 4 ∨ t = 5 ∨ t = 6 ∨ t = 7 := by revert t; decide
  rcases ht with rfl | rfl | rfl | rfl | rfl | rfl | rfl | rfl <;> rfl

end Families

end Machine

end Sys2Proof
end

