-- ==== Sys2Proof/Proofs/RegisterFile.lean ====
section
/-! The register file (spec/10_state.md): the flag byte, the pairs, the power-on values. -/

namespace Sys2Proof.Machine

/-- The bits of `F` (R21, D8). -/
theorem Flags.toByte_layout (f : Flags) : f.toByte.getLsbD 7 = f.z ∧ f.toByte.getLsbD 6 = f.n ∧
    f.toByte.getLsbD 5 = f.h ∧ f.toByte.getLsbD 4 = f.c ∧ f.toByte.extractLsb' 0 4 = 0 := by
  obtain ⟨z, n, h, c⟩ := f
  revert z n h c
  decide

/-- Settles O5, from the layout of the byte the four flags make. -/
theorem flagByteLayout : Obligations.FlagByteLayout := fun s => s.flags.toByte_layout

/-- Settles O6: a pair is the join of its two registers. -/
theorem pairRoundTrip : Obligations.PairRoundTrip := fun s v =>
  ⟨⟨join_toNat s.b s.c, join_toNat s.d s.e, join_toNat s.h s.l⟩, ⟨rfl, rfl, rfl⟩,
    join_hiByte_loByte v, join_hiByte_loByte v, join_hiByte_loByte v⟩

/-- `F` after a write of AF: `v[7:4] : 0000` (R23). -/
theorem setAf_f (s : State) (v : Word) : (s.setAf v).f = v.extractLsb' 4 4 ++ 0#4 := by
  apply BitVec.eq_of_getLsbD_eq
  intro i hi
  show (Flags.ofByte (loByte v)).toByte.getLsbD i = _
  rw [toByte_ofByte_getLsbD, BitVec.getLsbD_append]
  by_cases h4 : i < 4
  · simp [h4]
  · simp [h4, hi, show i - 4 < 4 by omega, show 4 + (i - 4) = i by omega, show 4 ≤ i by omega]

/-- AF reads back as the word written without its low nibble (R23). -/
theorem setAf_af (s : State) (v : Word) : (s.setAf v).af = v &&& 0xFFF0 := by
  have hmask : (0xFFF0 : Word) = BitVec.allOnes 12 ++ 0#4 := by decide
  apply BitVec.eq_of_getLsbD_eq
  intro i hi
  show (hiByte v ++ (s.setAf v).f : BitVec (8 + 8)).getLsbD i = _
  rw [setAf_f, hmask]
  simp only [BitVec.getLsbD_and, BitVec.getLsbD_append, BitVec.getLsbD_extractLsb', BitVec.getLsbD_allOnes,
    BitVec.getLsbD_zero]
  by_cases h4 : i < 4
  · simp [h4, show i < 8 by omega]
  · by_cases h8 : i < 8
    · simp [h4, h8, show i - 4 < 4 by omega, show i - 4 < 12 by omega, show 4 + (i - 4) = i by omega]
    · simp [h4, h8, show i - 8 < 8 by omega, show i - 4 < 12 by omega, show 8 + (i - 8) = i by omega]

/-- Settles O7: AF is a join too, and a write of it keeps the high nibble of the word's low byte alone. -/
theorem afMasksLowNibble : Obligations.AfMasksLowNibble := fun s v =>
  ⟨join_toNat s.a s.f, setAf_a s v, setAf_f s v, setAf_af s v⟩

/-- `F` at power-on: Z, H and C set (R35). -/
theorem powerOn_f (params : Params) (ram0 : Memory) (irqIn : List IrqIn) :
    (State.powerOn params ram0 irqIn).f = 0xB0 := by
  show Flags.toByte ⟨true, false, true, true⟩ = 0xB0
  decide

/-- Settles O53: no argument of the power-on state has a part in its registers. -/
theorem powerOnValues : Obligations.PowerOnValues := fun params ram0 irqIn =>
  ⟨⟨rfl, powerOn_f params ram0 irqIn, rfl, rfl, rfl, rfl, rfl, rfl⟩, ⟨rfl, rfl⟩, ⟨rfl, rfl, rfl, rfl, rfl, rfl⟩,
    ⟨rfl, rfl, rfl, rfl, rfl, rfl, rfl⟩, rfl, rfl⟩

end Sys2Proof.Machine
end

