-- ==== Sys2Proof/Proofs/Invariant.lean ====
section
/-! The invariant `State.Inv` (spec/10_state.md R31, R33): the power-on state meets it, and every operation a machine step is
made of keeps it. -/

namespace Sys2Proof.Machine

/-! ## The end of a machine step -/

section EndStep

variable (c : Nat) (s : State)

@[simp] theorem endStep_pc : (endStep c s).pc = s.pc := by simp [endStep]
@[simp] theorem endStep_ime : (endStep c s).ime = s.ime := by simp [endStep]
@[simp] theorem endStep_halted : (endStep c s).halted = s.halted := by simp [endStep]
@[simp] theorem endStep_mem : (endStep c s).mem = s.mem := by simp [endStep]
@[simp] theorem endStep_params : (endStep c s).params = s.params := by simp [endStep]

end EndStep

/-! ## What keeps the invariant -/

theorem State.Inv.ram {s : State} (h : s.Inv) : Memory.wf s.mem ∧ ∀ cell ∈ s.mem, ramKey cell.1 := by
  obtain ⟨hwf, hkeys, -⟩ := h
  exact ⟨hwf, hkeys⟩

theorem State.Inv.timaAcc_lt {s : State} (h : s.Inv) : s.timaAcc < 1024 := by
  obtain ⟨-, -, -, -, hlt⟩ := h
  exact hlt

/-- No operation writes the parameters, so what is left to say of one is what it makes of memory and the accumulator. -/
theorem State.Inv.of_ram {s t : State} (h : s.Inv) (hram : Memory.wf t.mem ∧ ∀ cell ∈ t.mem, ramKey cell.1)
    (hparams : t.params = s.params) (hacc : t.timaAcc < 1024) : t.Inv := by
  obtain ⟨-, -, hrom, hlen, -⟩ := h
  refine ⟨hram.1, hram.2, ?_, ?_, hacc⟩
  · rwa [hparams]
  · rwa [State.romLen, hparams]

theorem State.Inv.congr {s t : State} (h : s.Inv) (hmem : t.mem = s.mem) (hparams : t.params = s.params)
    (hacc : t.timaAcc = s.timaAcc) : t.Inv :=
  h.of_ram (hmem ▸ h.ram) hparams (hacc ▸ h.timaAcc_lt)

theorem inv_updateCountdowns {s : State} (h : s.Inv) : (updateCountdowns s).Inv := h.congr (by simp) (by simp) (by simp)

theorem inv_fetchInstr {s u : State} {i : Instr} (hf : fetchInstr s = .ok (i, u)) (h : s.Inv) : u.Inv := by
  rw [fetchInstr_frame hf]
  exact h.congr rfl rfl rfl

theorem inv_push16 {s t : State} {v : Word} (hp : push16 s v = .ok t) (h : s.Inv) : t.Inv := by
  obtain ⟨-, -, -, -, -, -, -, -, hacc, -, hparams⟩ := push16_frame hp
  exact h.of_ram (push16_mem hp h.ram.1 h.ram.2) hparams (hacc ▸ h.timaAcc_lt)

theorem inv_dispatch {s t : State} {n : Nat} (hd : dispatch s n = .ok t) (h : s.Inv) : t.Inv := by
  obtain ⟨m, hm, rfl⟩ := dispatch_ok.1 hd
  exact (inv_push16 hm (h.congr rfl rfl rfl)).congr rfl rfl rfl

theorem inv_exec {s t : State} {i : Instr} (he : exec i s = .next t) (h : s.Inv) : t.Inv := by
  obtain ⟨-, hacc, -, hparams⟩ := (exec_change he).frame
  exact h.of_ram ((exec_change he).mem h.ram.1 h.ram.2) hparams (hacc ▸ h.timaAcc_lt)

/-- The end of the step is where the accumulator is written: a remainder by a period (R263, R264). -/
theorem inv_endStep {s : State} (c : Nat) (h : s.Inv) : (endStep c s).Inv := by
  have hacc : (endStep c s).timaAcc < 1024 := by
    rw [endStep, mergeIrqIn_timaAcc]
    exact timerAdvance_timaAcc_lt c s h.timaAcc_lt
  exact h.of_ram (endStep_mem c s ▸ h.ram) (endStep_params c s) hacc

theorem inv_step {s t : State} (hs : step s = .next t) (h : s.Inv) : t.Inv := by
  have hu := inv_updateCountdowns h
  rcases step_cases hs with ⟨n, w, -, -, -, -, -, hd, rfl⟩ | ⟨-, -, rfl⟩ | ⟨-, i, u, w, hf, he, rfl⟩
  case inl => exact inv_endStep _ (inv_dispatch hd (hu.congr rfl rfl rfl))
  case inr.inl => exact inv_endStep _ hu
  case inr.inr => exact inv_endStep _ (inv_exec he (inv_fetchInstr hf (hu.congr rfl rfl rfl)))

/-- Settles O54: whichever way the step goes, each operation on that way keeps the invariant. -/
theorem stepKeepsInvariant : Obligations.StepKeepsInvariant := fun _ _ h hs => inv_step hs h

/-- The power-on state meets the invariant where the RAM contents and the image are canonical and list only bytes that
exist (R35). -/
theorem inv_powerOn {params : Params} {ram0 : Memory} (irqIn : List IrqIn)
    (hram : Memory.wf ram0 ∧ ∀ cell ∈ ram0, ramKey cell.1)
    (hrom : Memory.wf params.rom ∧ ∀ cell ∈ params.rom, cell.1 < Config.romLenMin + params.romExtra) :
    (State.powerOn params ram0 irqIn).Inv :=
  ⟨hram.1, hram.2, hrom.1, hrom.2, by simp [State.powerOn, CoreState.powerOn]⟩

/-- Settles O52: at reset neither memory nor the image lists a byte (logs 3, 4). -/
theorem resetMeetsInvariant : Obligations.ResetMeetsInvariant :=
  inv_powerOn (params := Params.default) (ram0 := []) [] ⟨⟨.nil, by simp⟩, by simp⟩
    ⟨⟨.nil, by simp [Params.default]⟩, by simp [Params.default]⟩

end Sys2Proof.Machine
end

