-- ==== Sys2Proof/Proofs/StatusChanges.lean ====
section
/-! What may write the flags, `halted` and IME (spec/10_state.md R21, R26, R27, R28). -/

namespace Sys2Proof.Machine

/-! ## The flags and `halted`, instruction by instruction -/

/-- The flags and `halted` are as they were. -/
def SameStatus (s t : State) : Prop := t.flags = s.flags ∧ t.halted = s.halted

section Shared

variable {s t : State}

/-- What holds of the state a meaning answers at once holds of the next state. -/
theorem of_next_eq {u : State} (h : (.next u : Host.Outcome State Fault Refusal) = .next t) (P : State → Prop)
    (hu : P u) : P t := by
  cases h; exact hu

theorem sameStatus_setReg8 (s : State) (r : Reg8) (v : Byte) : SameStatus s (s.setReg8 r v) := by simp [SameStatus]

theorem sameStatus_setPair (s : State) (p : Pair) (v : Word) : SameStatus s (s.setPair p v) := by simp [SameStatus]

theorem loadRegMem_sameStatus {dst : Reg8} {a : Word} (h : loadRegMem dst a s = .next t) : SameStatus s t := by
  simp only [loadRegMem, finish_eq_next, bind_eq_ok, pure, Except.pure, Except.ok.injEq] at h
  obtain ⟨v, -, rfl⟩ := h
  exact sameStatus_setReg8 s dst v

theorem storeMem_sameStatus {a : Word} {v : Byte} (h : storeMem a v s = .next t) : SameStatus s t := by
  obtain ⟨-, hflags, -, -, -, hhalted, -⟩ := store8_frame ((finish_eq_next _ _).1 h)
  exact ⟨hflags, hhalted⟩

theorem push16_sameStatus {v : Word} (h : push16 s v = .ok t) : SameStatus s t := by
  obtain ⟨-, hflags, -, -, -, hhalted, -⟩ := push16_frame h
  exact ⟨hflags, hhalted⟩

theorem call_sameStatus {target : Word} (h : finish (pushPcAndJump s target) = .next t) : SameStatus s t := by
  obtain ⟨m, hm, rfl⟩ := pushPcAndJump_ok.1 ((finish_eq_next _ _).1 h)
  have hkept : SameStatus s m := push16_sameStatus hm
  exact hkept

theorem ret_sameStatus (h : finish (returnFromStack s) = .next t) : SameStatus s t := by
  obtain ⟨lo, hi, -, -, rfl⟩ := returnFromStack_ok.1 ((finish_eq_next _ _).1 h)
  exact ⟨rfl, rfl⟩

theorem retIf_sameStatus {cc : Cond} (h : retIf cc s = .next t) : SameStatus s t := by
  unfold retIf at h
  split at h
  · exact ret_sameStatus h
  · exact of_next_eq h (SameStatus s) ⟨rfl, rfl⟩

theorem jrIf_sameStatus {cc : Cond} {e : Byte} (h : jrIf cc e s = .next t) : SameStatus s t := by
  unfold jrIf at h
  split at h <;> exact of_next_eq h (SameStatus s) ⟨rfl, rfl⟩

theorem aluOp_apply_halted (op : AluOp) (v : Byte) (s : State) : (op.apply v s).halted = s.halted := by cases op <;> rfl

theorem withByteAtHl_halted {op : AluOp} (h : withByteAtHl op.apply s = .next t) : t.halted = s.halted := by
  simp only [withByteAtHl, finish_eq_next, bind_eq_ok, pure, Except.pure, Except.ok.injEq] at h
  obtain ⟨v, -, rfl⟩ := h
  exact aluOp_apply_halted op v s

end Shared

/-- One of the 36 rows of add, sub, cp and xor. -/
def AluRow (i : Instr) : Prop := ∃ op : AluOp, (∃ r, i = op.reg r) ∨ i = op.atHl ∨ ∃ n, i = op.imm n

/-- The flags change only in an ALU row, `halted` only in `halt`. -/
theorem exec_status {i : Instr} {s t : State} (h : exec i s = .next t) :
    SameStatus s t ∨ (AluRow i ∧ t.halted = s.halted) ∨ (i = .halt ∧ t.flags = s.flags) := by
  cases i.form with
  | aluReg op r =>
    rw [exec_aluReg] at h
    exact .inr (.inl ⟨⟨op, .inl ⟨r, rfl⟩⟩, of_next_eq h (·.halted = s.halted) (aluOp_apply_halted op _ s)⟩)
  | aluAtHl op => exact .inr (.inl ⟨⟨op, .inr (.inl rfl)⟩, withByteAtHl_halted (exec_aluAtHl s op ▸ h)⟩)
  | aluN op n =>
    rw [exec_aluN] at h
    exact .inr (.inl ⟨⟨op, .inr (.inr ⟨n, rfl⟩)⟩, of_next_eq h (·.halted = s.halted) (aluOp_apply_halted op n s)⟩)
  | halt => exact .inr (.inr ⟨rfl, of_next_eq h (·.flags = s.flags) rfl⟩)
  | ldReg dst src => rw [exec_ldReg] at h; exact .inl (of_next_eq h (SameStatus s) (sameStatus_setReg8 s dst _))
  | ldRegN dst n => rw [exec_ldRegN] at h; exact .inl (of_next_eq h (SameStatus s) (sameStatus_setReg8 s dst n))
  | ldPairNn p nn => rw [exec_ldPairNn] at h; exact .inl (of_next_eq h (SameStatus s) (sameStatus_setPair s p nn))
  | ldRegAtHl dst => rw [exec_ldRegAtHl] at h; exact .inl (loadRegMem_sameStatus h)
  | ld_a__bc | ld_a__de => exact .inl (loadRegMem_sameStatus h)
  | ldAtHlReg src => rw [exec_ldAtHlReg] at h; exact .inl (storeMem_sameStatus h)
  | ld__bc__a | ld__de__a | ld__hl__n n => exact .inl (storeMem_sameStatus h)
  | pushPair p => rw [exec_pushPair] at h; exact .inl (push16_sameStatus ((finish_eq_next _ _).1 h))
  | call_nn nn => exact .inl (call_sameStatus h)
  | rstTarget k => rw [exec_rstTarget] at h; exact .inl (call_sameStatus h)
  | ret => exact .inl (ret_sameStatus h)
  | retCond cc => rw [exec_retCond] at h; exact .inl (retIf_sameStatus h)
  | jrCond cc e => rw [exec_jrCond] at h; exact .inl (jrIf_sameStatus h)
  | ld_sp_hl | jr_e e | jp_nn nn | jp_hl | di | ei => exact .inl (of_next_eq h (SameStatus s) ⟨rfl, rfl⟩)
  | prefix_0xCB => exact absurd h (fault_ne_next _ _)

theorem aluRow_of_flags_ne {i : Instr} {s t : State} (h : exec i s = .next t) (hne : t.flags ≠ s.flags) : AluRow i := by
  rcases exec_status h with ⟨hf, -⟩ | ⟨halu, -⟩ | ⟨-, hf⟩
  · exact absurd hf hne
  · exact halu
  · exact absurd hf hne

/-- Settles O56: the rows that write the flags, operation by operation and operand by operand. -/
theorem onlyAluWritesFlags : Obligations.OnlyAluWritesFlags := by
  intro i s t h hne
  obtain ⟨op, ⟨r, rfl⟩ | rfl | ⟨n, rfl⟩⟩ := aluRow_of_flags_ne h hne
  · exact .inl ⟨r, by cases op <;> simp [AluOp.reg]⟩
  · cases op <;> simp [AluOp.atHl]
  · cases op <;> simp [AluOp.imm]

theorem exec_halted {i : Instr} {s t : State} (h : exec i s = .next t) : i = .halt ∨ t.halted = s.halted := by
  rcases exec_status h with ⟨-, hh⟩ | ⟨-, hh⟩ | ⟨hi, -⟩
  · exact .inr hh
  · exact .inr hh
  · exact .inl hi

/-! ## `halted` over a machine step -/

theorem dispatch_ime_halted {s t : State} {n : Nat} (h : dispatch s n = .ok t) : t.ime = false ∧ t.halted = s.halted := by
  obtain ⟨m, hm, rfl⟩ := dispatch_ok.1 h
  obtain ⟨-, -, -, -, hime, hhalted, -⟩ := push16_frame hm
  exact ⟨hime, hhalted⟩

/-- A halted engine goes on to a fetch only where a line is ready (R252). -/
theorem ready_ne_zero_of_willFetch {s : State} (hw : WillFetch s) (hh : s.halted = true) : s.ready ≠ 0 := by
  rcases hw with ⟨-, hrun⟩ | ⟨hready, -⟩
  · simp [hh] at hrun
  · simpa using hready

/-- What a step makes of `halted`: it idles halted, or a line is ready or the engine runs, and then it ends halted only
by the halt operation. -/
theorem step_halted {s t : State} (h : step s = .next t) :
    (s.ready = 0 ∧ s.halted = true ∧ t.halted = true ∧ t.pc = s.pc) ∨
    ((s.halted = true → s.ready ≠ 0) ∧
      (t.halted = true → ∃ w, fetchInstr (fetchState s) = .ok (.halt, w))) := by
  rcases step_cases h with ⟨n, w, hready, -, -, -, -, hd, rfl⟩ | ⟨hready, hh, rfl⟩ | ⟨hw, i, u, w, hf, he, rfl⟩
  case inl =>
    obtain ⟨-, hhalted⟩ := dispatch_ime_halted hd
    exact .inr ⟨fun _ => by simpa using hready, fun ht => by simp [hhalted] at ht⟩
  case inr.inl => exact .inl ⟨by simpa using hready, hh, by simpa using hh, by simp⟩
  case inr.inr =>
    have hu : u.halted = false := by rw [fetchInstr_frame hf]; rfl
    refine .inr ⟨ready_ne_zero_of_willFetch hw, fun ht => ?_⟩
    rcases exec_halted he with rfl | hwu
    · exact ⟨u, hf⟩
    · simp [hwu, hu] at ht

/-- Settles O58, from the two ways of `step_halted`. -/
theorem haltedChangesOnlyByHaltOrWake : Obligations.HaltedChangesOnlyByHaltOrWake := by
  intro s t h
  rcases step_halted h with ⟨hready, hs, ht, hpc⟩ | ⟨hwake, hhalt⟩
  · exact ⟨fun hs' => by simp [hs] at hs', fun _ ht' => by simp [ht] at ht', fun _ _ => ⟨ht, hpc⟩⟩
  · exact ⟨fun _ => hhalt, fun hs _ => hwake hs, fun hs hready => absurd hready (hwake hs)⟩

/-! ## IME over a machine step -/

/-- Settles O42, from the values of the countdowns and of IME after the update. -/
theorem countdownsFlipIme : Obligations.CountdownsFlipIme := fun s =>
  ⟨updateCountdowns_diCnt s, updateCountdowns_eiCnt s, updateCountdowns_ime s, updateCountdowns_eq s⟩

/-- IME after a step is what the countdowns made of it, but for a dispatch, which clears it (R132, R254). -/
theorem step_ime {s t : State} (h : step s = .next t) :
    t.ime = (updateCountdowns s).ime ∨
    (t.ime = false ∧ ∃ w, interruptCheck (updateCountdowns s) = .ok (w, true)) := by
  rcases step_cases h with ⟨n, w, -, -, -, -, hc, hd, rfl⟩ | ⟨-, -, rfl⟩ | ⟨-, i, u, w, hf, he, rfl⟩
  case inl => exact .inr ⟨by rw [endStep_ime, (dispatch_ime_halted hd).1], w, hc⟩
  case inr.inl => exact .inl (endStep_ime _ _)
  case inr.inr =>
    obtain ⟨hime, -⟩ := (exec_change he).frame
    have hu : u.ime = (updateCountdowns s).ime := by rw [fetchInstr_frame hf]; rfl
    exact .inl (by rw [endStep_ime, hime, hu])

/-- The countdowns set IME only where `ei_cnt` expires. -/
theorem eiCnt_of_ime_set {s : State} (hs : s.ime = false) (hu : (updateCountdowns s).ime = true) : s.eiCnt = .one := by
  by_contra hne
  simp [updateCountdowns_ime, hne, hs] at hu

/-- The countdowns clear IME only where `di_cnt` expires. -/
theorem diCnt_of_ime_cleared {s : State} (hs : s.ime = true) (hu : (updateCountdowns s).ime = false) :
    s.diCnt = .one := by
  by_contra hne
  simp [updateCountdowns_ime, hne, hs] at hu

/-- Settles O57: a dispatch only clears IME, and without one the step's IME is that of the countdowns. -/
theorem imeChangesOnlyByCountdownOrDispatch : Obligations.ImeChangesOnlyByCountdownOrDispatch := by
  intro s t h
  rcases step_ime h with ht | ⟨ht, hdispatch⟩
  · rw [ht]
    exact ⟨eiCnt_of_ime_set, fun hs hu => .inl (diCnt_of_ime_cleared hs hu)⟩
  · exact ⟨fun _ ht' => by simp [ht] at ht', fun _ _ => .inr hdispatch⟩

end Sys2Proof.Machine
end

