-- ==== Sys2Proof/Proofs/MemoryMap.lean ====
section
/-! The memory map (spec/20_memory.md): what a load and a store do in each window, the echo alias, the I/O registers, and
what a store leaves to be read. An address where an access is fatal is one `LoadMapped` or `StoreMapped` rules out. -/

namespace Sys2Proof.Machine

/-! ## Windows by their numbers -/

/-- The address of a byte of external, working, echo or high RAM (R61). -/
abbrev RamAddress (address : Word) : Prop :=
  (0xA000 ≤ address.toNat ∧ address.toNat < 0xFE00) ∨ (0xFF80 ≤ address.toNat ∧ address.toNat < 0xFFFF)

theorem window_of_ramAddress {address : Word} (h : RamAddress address) :
    window address = .externalRam ∨ window address = .workingRam ∨ window address = .echoRam ∨
    window address = .highRam := by
  simp only [window]
  split_ifs <;> simp <;> omega

theorem window_io_of_range {address : Word} (h : 0xFF00 ≤ address.toNat ∧ address.toNat ≤ 0xFF7F) :
    window address = .io := by
  simp (disch := omega) only [window, if_neg, if_pos]

theorem window_interruptEnable {address : Word} (h : address.toNat = 0xFFFF) : window address = .interruptEnable := by
  simp [window, h]

theorem window_io_of_ioRegister {address : Word} {r : IoRegister} (h : ioRegister address = some r) :
    window address = .io := by
  rcases (ioRegister_eq_some address r).1 h with h | h | h | h | h | h | h <;> rw [h.2] <;> rfl

/-- The addresses of R70 are those of the I/O window no handler has. -/
theorem ioRegister_eq_none_iff {address : Word} (h : window address = .io) :
    ioRegister address = none ↔ UnimplementedIo address := by
  have hrange := window_io_range h
  simp only [Option.eq_none_iff_forall_ne_some, ne_eq, ioRegister_eq_some, UnimplementedIo, hrange]
  grind

/-! ## Loads and stores, window by window -/

section Accesses

variable (s : State) {address : Word} (v : Byte)

/-- Both ROM windows, as far as the image goes (R62, R64). -/
theorem load8_rom (hrom : address.toNat < 0x8000) (hlen : address.toNat < s.romLen) :
    load8 s address = .ok (Memory.get s.params.rom address.toNat) := by
  have hw : window address = .rom ∨ window address = .romBank := by
    simp only [window]
    split_ifs <;> simp
  rcases hw with hw | hw <;> simp [load8, hw, hlen]

theorem load8_ram (h : RamAddress address) : load8 s address = .ok (Memory.get s.mem (cellKey address)) := by
  rcases window_of_ramAddress h with hw | hw | hw | hw <;> simp only [load8, hw]

theorem store8_ram (h : RamAddress address) :
    store8 s address v = .ok { s with mem := Memory.set s.mem (cellKey address) v } := by
  rcases window_of_ramAddress h with hw | hw | hw | hw <;> simp only [store8, hw]

theorem load8_interruptEnable (h : address.toNat = 0xFFFF) : load8 s address = .ok s.ie := by
  simp only [load8, window_interruptEnable h]

theorem store8_interruptEnable (h : address.toNat = 0xFFFF) : store8 s address v = .ok { s with ie := v } := by
  simp only [store8, window_interruptEnable h]

theorem load8_ioRegister {r : IoRegister} (h : ioRegister address = some r) : load8 s address = .ok (s.readIo r) := by
  simp only [load8, window_io_of_ioRegister h, h]

theorem store8_ioRegister {r : IoRegister} (h : ioRegister address = some r) :
    store8 s address v = .ok (s.writeIo r v) := by
  simp only [store8, window_io_of_ioRegister h, h]

theorem load8_unimplementedIo (h : UnimplementedIo address) : load8 s address = .ok Config.ioDefault := by
  have hw := window_io_of_range h.1
  simp only [load8, hw, (ioRegister_eq_none_iff hw).2 h]

theorem store8_unimplementedIo (h : UnimplementedIo address) : store8 s address v = .ok s := by
  have hw := window_io_of_range h.1
  simp only [store8, hw, (ioRegister_eq_none_iff hw).2 h]

end Accesses

theorem romLenMin_le_romLen (s : State) : 0x4000 ≤ s.romLen := Nat.le_add_right ..

/-! ## The map -/

/-- Settles O33: the ROM windows as far as the image goes, RAM by the key of its cell, IE, and `LoadMapped` for the rest. -/
theorem loadsByWindow : Obligations.LoadsByWindow := by
  intro s address
  have hlen := romLenMin_le_romLen s
  have hkey := cellKey_eq address
  have hfault : ¬ LoadMapped s address → load8 s address = .error (.unmapped address .load) := load8_error s address
  simp only [LoadMapped] at hfault
  refine ⟨fun h => load8_rom s (by omega) (by omega), fun h hrom => load8_rom s (by omega) hrom,
    fun h hrom => hfault (by omega), fun h => hfault (by omega), fun h => ?_, fun h => ?_, fun h => hfault (by omega),
    fun h => ?_, load8_interruptEnable s⟩
  · rw [load8_ram s (by omega), hkey, if_neg (by omega)]
  · rw [load8_ram s (by omega), hkey, if_pos (by omega)]
  · rw [load8_ram s (by omega), hkey, if_neg (by omega)]

/-- Settles O34: RAM by the key of its cell, IE, and `StoreMapped` for the rest. -/
theorem storesByWindow : Obligations.StoresByWindow := by
  intro s address v
  have hkey := cellKey_eq address
  have hfault : ¬ StoreMapped address → store8 s address v = .error (.unmapped address .store) := store8_error s address v
  simp only [StoreMapped] at hfault
  refine ⟨fun h => hfault (by omega), fun h => ?_, fun h => ?_, fun h => hfault (by omega), fun h => ?_,
    store8_interruptEnable s v⟩
  · rw [store8_ram s v (by omega), hkey, if_neg (by omega)]
  · rw [store8_ram s v (by omega), hkey, if_pos (by omega)]
  · rw [store8_ram s v (by omega), hkey, if_neg (by omega)]

/-- Settles O35: both addresses are in RAM and have one key. -/
theorem echoAliasesWorkingRam : Obligations.EchoAliasesWorkingRam := by
  intro s address v hlo hhi
  have hsub : (address - 0x2000).toNat = address.toNat - 0x2000 := by bv_omega
  have hecho : RamAddress address := by omega
  have hworking : RamAddress (address - 0x2000) := by omega
  have hsame : SameByte address (address - 0x2000) := by
    rw [SameByte, cellKey_eq, cellKey_eq, if_pos (by omega), if_neg (by omega), hsub]
  have hstore := store8_ram s v hworking
  refine ⟨?_, ?_, _, hstore, load8_store8_ram hstore hworking _ hsame, load8_store8_ram hstore hworking _ rfl⟩
  · rw [load8_ram s hecho, load8_ram s hworking, hsame]
  · rw [store8_ram s v hecho, hstore, hsame]

/-- Settles O36: the handler at each address (R69), and what it reads and writes. -/
theorem ioRegistersByAddress : Obligations.IoRegistersByAddress := fun s v =>
  ⟨⟨load8_ioRegister s (r := .sb) rfl, load8_ioRegister s (r := .sc) rfl, load8_ioRegister s (r := .div) rfl,
    load8_ioRegister s (r := .tima) rfl, load8_ioRegister s (r := .tma) rfl, load8_ioRegister s (r := .tac) rfl,
    load8_ioRegister s (r := .iflag) rfl⟩,
   ⟨store8_ioRegister s v (r := .sb) rfl, store8_ioRegister s v (r := .sc) rfl, store8_ioRegister s v (r := .div) rfl,
    store8_ioRegister s v (r := .tima) rfl, store8_ioRegister s v (r := .tma) rfl, store8_ioRegister s v (r := .tac) rfl,
    store8_ioRegister s v (r := .iflag) rfl⟩⟩

/-- Settles O37: such an address is in the I/O window and has no handler. -/
theorem unimplementedIoIsNotFatal : Obligations.UnimplementedIoIsNotFatal := fun s _ v h =>
  ⟨load8_unimplementedIo s h, store8_unimplementedIo s v h⟩

/-! ## Two bytes at a time -/

/-- Settles O39: the two accesses in sequence, of which the first that fails ends it. -/
theorem wordAccessesAreTwoBytes : Obligations.WordAccessesAreTwoBytes := by
  intro s address v
  unfold load16 store16
  refine ⟨fun lo hi hlo hhi => ?_, fun f hlo => ?_, fun lo f hlo hhi => ?_, fun t ht => ?_, fun f hf => ?_⟩
  · rw [hlo, ok_bind, hhi]; rfl
  · rw [hlo, error_bind]
  · rw [hlo, ok_bind, hhi, error_bind]
  · rw [ht, ok_bind]
  · rw [hf, error_bind]

/-! ## What a store leaves to be read (R80, R81) -/

theorem ioRegister_eq_div_iff (address : Word) : ioRegister address = some .div ↔ address = 0xFF04 := by
  simp [ioRegister_eq_some]

theorem writeIo_divc (s : State) (r : IoRegister) (v : Byte) :
    (s.writeIo r v).divc = if r = .div then 0 else s.divc := by cases r <;> rfl

theorem readIo_writeIo_same (s : State) (r : IoRegister) (v : Byte) :
    (s.writeIo r v).readIo r = if r = .div then 0 else v := by
  cases r <;> simp [State.writeIo, State.readIo]

/-- The exceptions of R69 and R70, DIV and the addresses with no handler, are in the I/O window. -/
theorem readsBack_outside_io {address : Word} {v : Byte} (h : ¬ (0xFF00 ≤ address.toNat ∧ address.toNat ≤ 0xFF7F)) :
    readsBack address v v :=
  ⟨fun hdiv => absurd (by simp [hdiv]) h, fun hio => absurd hio.1 h, fun _ _ => rfl⟩

theorem readsBack_ioRegister {address : Word} {r : IoRegister} (v : Byte) (h : ioRegister address = some r) :
    readsBack address v (if r = .div then 0 else v) := by
  have hdiv : r = .div ↔ address = 0xFF04 := by rw [← ioRegister_eq_div_iff, h, Option.some_inj]
  have hsome : ¬ UnimplementedIo address := fun hio => by
    rw [(ioRegister_eq_none_iff (window_io_of_ioRegister h)).2 hio] at h
    cases h
  exact ⟨fun ha => if_pos (hdiv.2 ha), fun hio => absurd hio hsome, fun ha _ => if_neg (mt hdiv.1 ha)⟩

theorem readsBack_unimplementedIo {address : Word} (v : Byte) (h : UnimplementedIo address) :
    readsBack address v Config.ioDefault :=
  ⟨fun ha => absurd (by simp [ha]) h.2, fun _ => rfl, fun _ hio => absurd h hio⟩

section Store

variable {s t : State} {address : Word} {v : Byte}

/-- Of the stores only one to DIV writes the divider. -/
theorem store8_divc (h : store8 s address v = .ok t) : t.divc = if address = 0xFF04 then 0 else s.divc := by
  rcases store8_cases h with ⟨hram, -, rfl⟩ | ⟨-, r, hr, rfl⟩ | ⟨-, hnone, rfl⟩ | ⟨hie, rfl⟩
  · exact (if_neg (by rintro rfl; simp at hram)).symm
  · rw [writeIo_divc]
    refine if_congr ?_ rfl rfl
    rw [← ioRegister_eq_div_iff, hr, Option.some_inj]
  · exact (if_neg (by rintro rfl; simp [ioRegister] at hnone)).symm
  · exact (if_neg (by rintro rfl; simp at hie)).symm

/-- The byte stored is there to be read, through either alias. -/
theorem load8_store8_same (h : store8 s address v = .ok t) {b : Word} (hb : SameByte b address) :
    ∃ r, load8 t b = .ok r ∧ readsBack address v r := by
  rcases store8_cases h with ⟨hram, -, -⟩ | ⟨hw, r, hr, rfl⟩ | ⟨hw, hnone, rfl⟩ | ⟨hie, rfl⟩
  · exact ⟨v, load8_store8_ram h hram b hb, readsBack_outside_io (by omega)⟩
  · obtain rfl := sameByte_eq (window_io_range hw).1 hb
    exact ⟨_, by rw [load8_ioRegister _ hr, readIo_writeIo_same], readsBack_ioRegister v hr⟩
  · obtain rfl := sameByte_eq (window_io_range hw).1 hb
    have hio := (ioRegister_eq_none_iff hw).1 hnone
    exact ⟨_, load8_unimplementedIo _ hio, readsBack_unimplementedIo v hio⟩
  · obtain rfl := sameByte_eq (by omega) hb
    exact ⟨v, load8_interruptEnable _ hie, readsBack_outside_io (by omega)⟩

/-- All that a successful store does, as the statements about single instructions say it. -/
theorem storeEffect_of_store8 (h : store8 s address v = .ok t) : StoreEffect address v s t := by
  obtain ⟨hregs, hflags, -, hsp, hime, hhalted, hei, hdi, hacc, hirq, hparams⟩ := store8_frame h
  have hdivc := store8_divc h
  exact ⟨hregs, hflags, hsp, hime, hhalted, hei, hdi, hacc, hirq, hparams, fun ha => hdivc.trans (if_pos ha),
    fun ha => hdivc.trans (if_neg ha), load8_store8_other h, fun _ => load8_store8_same h⟩

end Store

/-- Settles O38: the effect of the store, and PC by the frame of every store. -/
theorem storeThenLoad : Obligations.StoreThenLoad := by
  intro s t address v h
  obtain ⟨-, -, hpc, -⟩ := store8_frame h
  exact ⟨storeEffect_of_store8 h, hpc⟩

end Sys2Proof.Machine
end

