-- ==== Sys2Proof/Proofs/MemoryKept.lean ====
section
/-! The instructions that leave memory and the device registers alone (spec/20_memory.md R80, spec/41_loads.md R161). What a
shared operation that stores nothing answers is said once, then that it keeps them, and the instructions follow by form. -/

namespace Sys2Proof.Machine

/-! ## What the operations that store nothing answer -/

section Inversions

variable {s t : State}

theorem loadRegMem_eq_next {dst : Reg8} {a : Word} :
    loadRegMem dst a s = .next t ↔ ∃ v, load8 s a = .ok v ∧ t = s.setReg8 dst v := by
  simp [loadRegMem, bind_eq_ok, pure, Except.pure, @eq_comm _ t]

theorem withByteAtHl_eq_next {f : Byte → State → State} :
    withByteAtHl f s = .next t ↔ ∃ v, load8 s s.hl = .ok v ∧ t = f v s := by
  simp [withByteAtHl, bind_eq_ok, pure, Except.pure, @eq_comm _ t]

theorem jrIf_eq (cc : Cond) (e : Byte) (s : State) :
    jrIf cc e s = .next { s with pc := if s.cond cc then s.relTarget e else s.pc } := by
  unfold jrIf
  split <;> rfl

theorem retIf_eq_next {cc : Cond} :
    retIf cc s = .next t ↔ if s.cond cc then returnFromStack s = .ok t else t = s := by
  unfold retIf
  split <;> simp [@eq_comm _ t]

end Inversions

/-! ## Memory and devices kept -/

/-- Memory, every register with a bus address and the whole divider are as they were. -/
def BusStateKept (s t : State) : Prop := t.mem = s.mem ∧ SameDevices s t ∧ t.divc = s.divc

theorem busStateKept_rfl (s : State) : BusStateKept s s := ⟨rfl, ⟨rfl, rfl, rfl, rfl, rfl, rfl, rfl⟩, rfl⟩

theorem busStateKept_setReg8 (s : State) (r : Reg8) (v : Byte) : BusStateKept s (s.setReg8 r v) := by
  simp [BusStateKept, SameDevices]

theorem busStateKept_setPair (s : State) (p : Pair) (v : Word) : BusStateKept s (s.setPair p v) := by
  simp [BusStateKept, SameDevices]

theorem busStateKept_aluOp (s : State) (op : AluOp) (v : Byte) : BusStateKept s (op.apply v s) := by
  cases op <;> exact busStateKept_rfl s

theorem busStateKept_withByteAtHl {s t : State} {op : AluOp} (h : withByteAtHl op.apply s = .next t) :
    BusStateKept s t := by
  obtain ⟨v, -, rfl⟩ := withByteAtHl_eq_next.1 h
  exact busStateKept_aluOp s op v

theorem busStateKept_returnFromStack {s t : State} (h : returnFromStack s = .ok t) : BusStateKept s t := by
  obtain ⟨lo, hi, -, -, rfl⟩ := returnFromStack_ok.1 h
  exact busStateKept_rfl s

theorem busStateKept_retIf {s t : State} {cc : Cond} (h : retIf cc s = .next t) : BusStateKept s t := by
  rw [retIf_eq_next] at h
  split at h
  · exact busStateKept_returnFromStack h
  · exact h ▸ busStateKept_rfl s

theorem busStateKept_loadRegMem {s t : State} {dst : Reg8} {a : Word} (h : loadRegMem dst a s = .next t) :
    BusStateKept s t := by
  obtain ⟨v, -, rfl⟩ := loadRegMem_eq_next.1 h
  exact busStateKept_setReg8 s dst v

/-- Settles O59: the hypotheses leave out the forms that store; every other form answers a state with only registers no
bus address reaches written. -/
theorem formsThatStoreNothingLeaveMemory : Obligations.FormsThatStoreNothingLeaveMemory := by
  intro i s t h hreg himm hbc hde hpush hcall hrst
  show BusStateKept s t
  have hkept {u : State} (hnext : exec i s = .next u) (hu : BusStateKept s u) : BusStateKept s t :=
    of_next_eq (hnext ▸ h) (BusStateKept s) hu
  cases i.form with
  | ldAtHlReg src => exact absurd rfl (hreg src)
  | ld__hl__n n => exact absurd rfl (himm n)
  | ld__bc__a => exact absurd rfl hbc
  | ld__de__a => exact absurd rfl hde
  | pushPair p => exact absurd rfl (hpush p)
  | call_nn nn => exact absurd rfl (hcall nn)
  | rstTarget k => exact absurd rfl (hrst k)
  | ldReg dst src => exact hkept (exec_ldReg s dst src) (busStateKept_setReg8 s dst _)
  | ldRegN dst n => exact hkept (exec_ldRegN s dst n) (busStateKept_setReg8 s dst n)
  | ldPairNn p nn => exact hkept (exec_ldPairNn s p nn) (busStateKept_setPair s p nn)
  | ldRegAtHl dst => exact busStateKept_loadRegMem (exec_ldRegAtHl s dst ▸ h)
  | ld_a__bc | ld_a__de => exact busStateKept_loadRegMem h
  | aluReg op src => exact hkept (exec_aluReg s op src) (busStateKept_aluOp s op _)
  | aluN op n => exact hkept (exec_aluN s op n) (busStateKept_aluOp s op n)
  | aluAtHl op => exact busStateKept_withByteAtHl (exec_aluAtHl s op ▸ h)
  | ret => exact busStateKept_returnFromStack ((finish_eq_next _ _).1 h)
  | retCond cc => exact busStateKept_retIf (exec_retCond s cc ▸ h)
  | jrCond cc e => exact hkept ((exec_jrCond s cc e).trans (jrIf_eq cc e s)) (busStateKept_rfl s)
  | ld_sp_hl | jr_e e | jp_nn nn | jp_hl | di | ei | halt => exact hkept rfl (busStateKept_rfl s)
  | prefix_0xCB => exact absurd h (fault_ne_next _ _)

end Sys2Proof.Machine
end

