-- ==== Sys2Proof/Proofs/Encoding.lean ====
section
/-! Decoding and encoding agree (spec/30_encoding.md). The bytes of each family are written from the fields x, y, z of its
opcode (R101, R108); quadrant by quadrant of the opcode map, an instruction the decoder selects is then encoded by the very
byte that selected it. -/

namespace Sys2Proof.Machine

/-! ## The fields of an opcode byte (R101 to R103) -/

/-- The three fields make up the byte (R101). -/
theorem append_fields (opcode : Byte) :
    opcode.extractLsb' 6 2 ++ opcode.extractLsb' 3 3 ++ opcode.extractLsb' 0 3 = opcode := by
  revert opcode
  decide

theorem eq_ofNat_of_toNat {w k : Nat} {field : BitVec w} (h : field.toNat = k) : field = BitVec.ofNat w k := by
  rw [← h, BitVec.ofNat_toNat, BitVec.setWidth_eq]

theorem eq_regCode_of_code8 {code : BitVec 3} {r : Reg8} (h : code8 code = .reg r) : code = regCode r := by
  cases r <;> revert code <;> decide

theorem eq_six_of_code8 {code : BitVec 3} (h : code8 code = .atHl) : code = 6#3 := by
  revert code
  decide

/-- In the upper half of the codes, a code is a set bit and the code of its condition. -/
theorem eq_append_ccCode {y : BitVec 3} (h : y.getLsbD 2 = true) :
    y = 1#1 ++ ccCode (condCode (y.extractLsb' 0 2)) := by
  revert y
  decide

/-- In the lower half of the codes, a code is a clear bit and the code of its condition. -/
theorem eq_append_ccCode_of_not {y : BitVec 3} (h : ¬ y.getLsbD 2 = true) :
    y = 0#1 ++ ccCode (condCode (y.extractLsb' 0 2)) := by
  revert y
  decide

theorem eq_ldPairCode_append {y : BitVec 3} (h : ¬ y.getLsbD 0 = true) :
    y = ldPairCode (pairCode (y.extractLsb' 1 2)) ++ 0#1 := by
  revert y
  decide

theorem eq_pushCode_append {y : BitVec 3} (h : ¬ y.getLsbD 0 = true) :
    y = pushCode (pushPairCode (y.extractLsb' 1 2)) ++ 0#1 := by
  revert y
  decide

/-! ## The bytes of each family, as x ++ y ++ z (R108) -/

/-- The y field of the rows of an ALU operation. -/
def aluCode (op : AluOp) : BitVec 3 :=
  match op with
  | .add => 0
  | .sub => 2
  | .xor => 5
  | .cp => 7

theorem encode_ldReg (dst src : Reg8) : encode (.ldReg dst src) = [1#2 ++ regCode dst ++ regCode src] := by
  cases dst <;> cases src <;> rfl

theorem encode_ldRegAtHl (dst : Reg8) : encode (.ldRegAtHl dst) = [1#2 ++ regCode dst ++ 6#3] := by cases dst <;> rfl

theorem encode_ldAtHlReg (src : Reg8) : encode (.ldAtHlReg src) = [1#2 ++ 6#3 ++ regCode src] := by cases src <;> rfl

theorem encode_ldRegN (dst : Reg8) (n : Byte) : encode (.ldRegN dst n) = [0#2 ++ regCode dst ++ 6#3, n] := by
  cases dst <;> rfl

theorem encode_ldPairNn (p : Pair) (nn : Word) :
    encode (.ldPairNn p nn) = [0#2 ++ (ldPairCode p ++ 0#1) ++ 1#3, loByte nn, hiByte nn] := by cases p <;> rfl

theorem encode_aluReg (op : AluOp) (src : Reg8) : encode (op.reg src) = [2#2 ++ aluCode op ++ regCode src] := by
  cases op <;> cases src <;> rfl

theorem encode_aluAtHl (op : AluOp) : encode op.atHl = [2#2 ++ aluCode op ++ 6#3] := by cases op <;> rfl

theorem encode_aluN (op : AluOp) (n : Byte) : encode (op.imm n) = [3#2 ++ aluCode op ++ 6#3, n] := by cases op <;> rfl

theorem encode_pushPair (p : PushPair) : encode (.pushPair p) = [3#2 ++ (pushCode p ++ 0#1) ++ 5#3] := by
  cases p <;> rfl

theorem encode_retCond (cc : Cond) : encode (.retCond cc) = [3#2 ++ (0#1 ++ ccCode cc) ++ 0#3] := by cases cc <;> rfl

theorem encode_jrCond (cc : Cond) (e : Byte) : encode (.jrCond cc e) = [0#2 ++ (1#1 ++ ccCode cc) ++ 0#3, e] := by
  cases cc <;> rfl

theorem encode_rstTarget (t : BitVec 3) : encode (.rstTarget t) = [3#2 ++ t ++ 7#3] := by
  revert t
  decide

/-! ## What the decoder selects is encoded by the byte that selected it -/

/-- Filled with operand bytes, the template is an instruction encoded as the opcode byte and those bytes. -/
def EncodedBy (opcode : Byte) : Template → Prop
  | .op i => encode i = [opcode]
  | .opN mk | .opE mk => ∀ n, encode (mk n) = [opcode, n]
  | .opNn mk => ∀ nn, encode (mk nn) = [opcode, loByte nn, hiByte nn]

theorem EncodedBy.of_fills {opcode : Byte} {template : Template} {operands : List Byte} {i : Instr}
    (h : EncodedBy opcode template) (hf : Fills template operands i) : encode i = opcode :: operands := by
  cases hf with
  | op i => exact h
  | opN mk n => exact h n
  | opE mk e => exact h e
  | opNn mk nn => exact h nn

section Quadrants

variable {y z : BitVec 3} {template : Template}

/-- The loads with an operand byte or word and the relative jumps, column by column of z. -/
theorem encodedBy_decodeX0 (h : decodeX0 y z = some template) : EncodedBy (0#2 ++ y ++ z) template := by
  unfold decodeX0 at h
  split at h
  next hz =>
    obtain rfl := eq_ofNat_of_toNat hz
    split_ifs at h with hjr hcc <;> cases h
    · subst hjr
      exact fun _ => rfl
    · exact fun e => by rw [encode_jrCond, ← eq_append_ccCode hcc]
  next hz =>
    obtain rfl := eq_ofNat_of_toNat hz
    split_ifs at h with hlow
    cases h
    exact fun nn => by rw [encode_ldPairNn, ← eq_ldPairCode_append hlow]
  next hz =>
    obtain rfl := eq_ofNat_of_toNat hz
    split at h <;> cases h
    all_goals next hy =>
      obtain rfl := eq_ofNat_of_toNat hy
      rfl
  next hz =>
    obtain rfl := eq_ofNat_of_toNat hz
    split at h <;> cases h
    next dst hy => exact eq_regCode_of_code8 hy ▸ encode_ldRegN dst
    next hy =>
      obtain rfl := eq_six_of_code8 hy
      exact fun _ => rfl
  next => cases h

/-- The loads between registers and `(hl)`, and `halt`. -/
theorem encodedBy_decodeX1 (h : decodeX1 y z = some template) : EncodedBy (1#2 ++ y ++ z) template := by
  unfold decodeX1 at h
  split at h <;> cases h
  next dst src hy hz => exact eq_regCode_of_code8 hy ▸ eq_regCode_of_code8 hz ▸ encode_ldReg dst src
  next dst hy hz => exact eq_regCode_of_code8 hy ▸ eq_six_of_code8 hz ▸ encode_ldRegAtHl dst
  next src hy hz => exact eq_six_of_code8 hy ▸ eq_regCode_of_code8 hz ▸ encode_ldAtHlReg src
  next hy hz =>
    obtain rfl := eq_six_of_code8 hy
    obtain rfl := eq_six_of_code8 hz
    rfl

/-- The ALU operations with a register or `(hl)` operand, row by row of y. -/
theorem encodedBy_decodeX2 (h : decodeX2 y z = some template) : EncodedBy (2#2 ++ y ++ z) template := by
  have hreg {op : AluOp} {src : Reg8} (hy : y = aluCode op) (hz : code8 z = .reg src) :
      EncodedBy (2#2 ++ y ++ z) (.op (op.reg src)) := hy ▸ eq_regCode_of_code8 hz ▸ encode_aluReg op src
  have hatHl {op : AluOp} (hy : y = aluCode op) (hz : code8 z = .atHl) :
      EncodedBy (2#2 ++ y ++ z) (.op op.atHl) := hy ▸ eq_six_of_code8 hz ▸ encode_aluAtHl op
  unfold decodeX2 at h
  split at h <;> cases h
  next hy hz => exact hreg (op := .add) (eq_ofNat_of_toNat hy) hz
  next hy hz => exact hatHl (op := .add) (eq_ofNat_of_toNat hy) hz
  next hy hz => exact hreg (op := .sub) (eq_ofNat_of_toNat hy) hz
  next hy hz => exact hatHl (op := .sub) (eq_ofNat_of_toNat hy) hz
  next hy hz => exact hreg (op := .xor) (eq_ofNat_of_toNat hy) hz
  next hy hz => exact hatHl (op := .xor) (eq_ofNat_of_toNat hy) hz
  next hy hz => exact hreg (op := .cp) (eq_ofNat_of_toNat hy) hz
  next hy hz => exact hatHl (op := .cp) (eq_ofNat_of_toNat hy) hz

/-- Stack, jumps, control and the ALU operations with an immediate, column by column of z. -/
theorem encodedBy_decodeX3 (h : decodeX3 y z = some template) : EncodedBy (3#2 ++ y ++ z) template := by
  unfold decodeX3 at h
  split at h
  next hz =>
    obtain rfl := eq_ofNat_of_toNat hz
    split_ifs at h with hcc
    cases h
    change encode _ = _
    rw [encode_retCond, ← eq_append_ccCode_of_not hcc]
  next hz =>
    obtain rfl := eq_ofNat_of_toNat hz
    split at h <;> cases h
    all_goals next hy =>
      obtain rfl := eq_ofNat_of_toNat hy
      rfl
  next hz =>
    obtain rfl := eq_ofNat_of_toNat hz
    split at h <;> cases h
    next hy =>
      obtain rfl := eq_ofNat_of_toNat hy
      exact fun _ => rfl
    all_goals next hy =>
      obtain rfl := eq_ofNat_of_toNat hy
      rfl
  next hz =>
    obtain rfl := eq_ofNat_of_toNat hz
    split_ifs at h with hcall hlow <;> cases h
    · subst hcall
      exact fun _ => rfl
    · change encode _ = _
      rw [encode_pushPair, ← eq_pushCode_append hlow]
  next hz =>
    obtain rfl := eq_ofNat_of_toNat hz
    split at h <;> cases h
    next hy => exact eq_ofNat_of_toNat hy ▸ encode_aluN .add
    next hy => exact eq_ofNat_of_toNat hy ▸ encode_aluN .sub
    next hy => exact eq_ofNat_of_toNat hy ▸ encode_aluN .xor
    next hy => exact eq_ofNat_of_toNat hy ▸ encode_aluN .cp
  next hz =>
    obtain rfl := eq_ofNat_of_toNat hz
    cases h
    exact encode_rstTarget y
  next => cases h

end Quadrants

theorem encodedBy_of_decodeOpcode {opcode : Byte} {template : Template} (h : decodeOpcode opcode = some template) :
    EncodedBy opcode template := by
  rw [← append_fields opcode]
  unfold decodeOpcode at h
  generalize opcode.extractLsb' 6 2 = x at h ⊢
  split at h
  next hx => exact eq_ofNat_of_toNat hx ▸ encodedBy_decodeX0 h
  next hx => exact eq_ofNat_of_toNat hx ▸ encodedBy_decodeX1 h
  next hx => exact eq_ofNat_of_toNat hx ▸ encodedBy_decodeX2 h
  next h0 h1 h2 =>
    simp only [imp_false] at h0 h1 h2
    have hx : x.toNat = 3 := by omega
    exact eq_ofNat_of_toNat hx ▸ encodedBy_decodeX3 h

/-- What a list of bytes decodes to is a template that bytes of the list fill. -/
theorem fills_of_decode {bytes rest : List Byte} {i : Instr} (h : decode bytes = .ok (i, rest)) :
    ∃ opcode operands template, bytes = opcode :: operands ++ rest ∧ decodeOpcode opcode = some template ∧
      Fills template operands i := by
  unfold decode at h
  split at h
  next => cases h
  next opcode tail =>
    split at h
    next => cases h
    next htemplate =>
      cases h
      exact ⟨opcode, [], _, rfl, htemplate, .op i⟩
    next mk htemplate =>
      split at h <;> cases h
      next n => exact ⟨opcode, [n], _, rfl, htemplate, .opN mk n⟩
    next mk htemplate =>
      split at h <;> cases h
      next e => exact ⟨opcode, [e], _, rfl, htemplate, .opE mk e⟩
    next mk htemplate =>
      split at h <;> cases h
      next lo hi =>
        have hf := Fills.opNn mk (join hi lo)
        rw [loByte_join, hiByte_join] at hf
        exact ⟨opcode, [lo, hi], _, rfl, htemplate, hf⟩

/-! ## The obligations -/

/-- Settles O2: the opcode byte selects the template the operand bytes fill. -/
theorem decodeOfEncode : Obligations.DecodeOfEncode := fun i rest =>
  have ⟨_, hselects, hfills⟩ := opcode_selects i
  decode_of_fills hselects hfills rest

/-- Settles O3: the decoder reads a template and its operand bytes, and the instruction it makes of them is encoded so. -/
theorem encodeOfDecode : Obligations.EncodeOfDecode := by
  intro bytes rest i h
  obtain ⟨opcode, operands, template, rfl, hselects, hfills⟩ := fills_of_decode h
  rw [(encodedBy_of_decodeOpcode hselects).of_fills hfills]

/-- The rows of R109, byte by byte over the opcode map. -/
theorem decodeOpcode_eq_none_iff (opcode : Byte) : decodeOpcode opcode = none ↔ opcode ∈ undefinedOpcodes := by
  revert opcode
  decide

@[simp] theorem fetchState_pc (s : State) : (fetchState s).pc = s.pc := updateCountdowns_pc s

/-- A fault of the fetch is the fault of the step that makes it. -/
theorem step_of_fetchInstr_error {s : State} {f : Fault} (hfetch : WillFetch s)
    (h : fetchInstr (fetchState s) = .error f) : step s = .fault f := by
  rw [step_of_willFetch hfetch, runInstr, h]

/-- Settles O4: the fetch ends where the decoder knows no instruction (R234, R241). -/
theorem undefinedOpcodesAreFatal : Obligations.UndefinedOpcodesAreFatal := by
  refine ⟨decodeOpcode_eq_none_iff, rfl, fun s opcode hfetch hundefined hload => ?_⟩
  rw [← fetchState_pc s] at hload ⊢
  have hunknown := fetchInstr_unknown hload ((decodeOpcode_eq_none_iff opcode).2 hundefined)
  exact step_of_fetchInstr_error hfetch hunknown

/-- Settles O1: each list of bytes evaluates to its row. -/
theorem writtenWordsDecode : Obligations.WrittenWordsDecode := by
  unfold Obligations.WrittenWordsDecode
  and_intros <;> rfl

end Sys2Proof.Machine
end

