-- ==== Sys2Proof/Proofs/Push.lean ====
section
/-! What a push does and where it is fatal (spec/44_stack_call_return.md R200), in the form the statements about pushes use. -/

namespace Sys2Proof.Machine

variable {s t : State} {v : Word}

theorem store8_of_storeMapped {address : Word} (h : StoreMapped address) (s : State) (b : Byte) :
    ∃ t, store8 s address b = .ok t := (store8_ok_iff s address b).2 h

/-- All that a successful push does: the effects of its two stores, one after the other. -/
theorem pushEffect_of_push16 (h : push16 s v = .ok t) : PushEffect v s t := by
  obtain ⟨m, hlo, hhi⟩ := push16_ok.1 h
  obtain ⟨-, -, -, hsp, -⟩ := push16_frame h
  refine ⟨hsp, ⟨m, storeEffect_of_store8 hlo, storeEffect_of_store8 hhi⟩, fun b hblo hbhi => ?_⟩
  calc load8 t b = load8 m b := load8_store8_other hhi b hbhi
    _ = load8 { s with sp := s.sp - 2 } b := load8_store8_other hlo b hblo
    _ = load8 s b := rfl

theorem push16_of_storeMapped (hlo : StoreMapped (s.sp - 2)) (hhi : StoreMapped (s.sp - 2 + 1)) (v : Word) :
    ∃ t, push16 s v = .ok t := by
  obtain ⟨m, hm⟩ := store8_of_storeMapped hlo { s with sp := s.sp - 2 } (loByte v)
  obtain ⟨t, ht⟩ := store8_of_storeMapped hhi m (hiByte v)
  exact ⟨t, push16_ok.2 ⟨m, hm, ht⟩⟩

theorem push16_error_low (hlo : ¬ StoreMapped (s.sp - 2)) (v : Word) :
    push16 s v = .error (.unmapped (s.sp - 2) .store) := by
  rw [push16, store16, store8_error _ _ _ hlo, error_bind]

theorem push16_error_high (hlo : StoreMapped (s.sp - 2)) (hhi : ¬ StoreMapped (s.sp - 2 + 1)) (v : Word) :
    push16 s v = .error (.unmapped (s.sp - 2 + 1) .store) := by
  obtain ⟨m, hm⟩ := store8_of_storeMapped hlo { s with sp := s.sp - 2 } (loByte v)
  rw [push16, store16, hm, ok_bind, store8_error _ _ _ hhi]

/-- What goes on from a push has its outcome: it hands on the push's fault, and from the pushed state makes `good`. -/
theorem pushOutcome_of_push16 {r : Host.Outcome State Fault Refusal} {good : Prop}
    (herror : ∀ f, push16 s v = .error f → r = .fault f) (hok : ∀ t, push16 s v = .ok t → good) :
    PushOutcome s r good := by
  refine ⟨fun hlo hhi => ?_, fun hlo => herror _ (push16_error_low hlo v), fun hlo hhi =>
    herror _ (push16_error_high hlo hhi v)⟩
  obtain ⟨t, ht⟩ := push16_of_storeMapped hlo hhi v
  exact hok t ht

/-- Where a push succeeds depends on SP alone. -/
theorem PushOutcome.congr_sp {r : Host.Outcome State Fault Refusal} {good : Prop} (h : PushOutcome s r good)
    (hsp : t.sp = s.sp) : PushOutcome t r good := by
  rwa [PushOutcome, hsp]

theorem pushPcAndJump_error {f : Fault} (h : push16 s s.pc = .error f) (target : Word) :
    pushPcAndJump s target = .error f := by
  rw [pushPcAndJump, h, error_bind]

end Sys2Proof.Machine
end

