-- ==== Sys2Proof/Proofs/EngineStep.lean ====
section
/-! The ways a machine step goes (spec/40_engine_step.md R130, R131): the interrupt check case by case, the dispatch, the idle
step and the step that fetches. -/

namespace Sys2Proof.Machine

/-! ## The interrupt check, one equation per case (R252, R253) -/

/-- The line chosen is the lowest ready one. -/
theorem lowestLine_eq_some {ready : Byte} {n : Nat} : lowestLine ready = some n ↔
    n < 8 ∧ ready.getLsbD n = true ∧ ∀ m, m < n → ready.getLsbD m = false := by
  rw [lowestLine, List.find?_range_eq_some, List.mem_range]
  simp only [Bool.not_eq_true', and_left_comm]

theorem vector_eq (n : Nat) : vector n = 0x0040 + BitVec.ofNat 16 (8 * n) := by
  rw [vector, BitVec.ofNat_mul]
  rfl

section Check

variable {s : State} {n : Nat}

theorem interruptCheck_of_ready_eq_zero (h : s.ready = 0) : interruptCheck s = .ok (s, false) := by
  rw [interruptCheck, (lowestLine_eq_none _).2 h]

theorem interruptCheck_of_line (hime : s.ime = true) (hline : lowestLine s.ready = some n) (hn : n < 5) :
    interruptCheck s = (dispatch { s with halted := false } n).map fun w => (w, true) := by
  simp only [interruptCheck, hline, hime, if_true, if_pos hn]
  rfl

theorem interruptCheck_of_undefined_line (hime : s.ime = true) (hline : lowestLine s.ready = some n) (hn : 5 ≤ n) :
    interruptCheck s = .error (.invalidInterruptLine n) := by
  simp only [interruptCheck, hline, hime, if_true, if_neg (Nat.not_lt.2 hn)]
  rfl

end Check

/-! ## The step, by what the check answers (R131) -/

section Step

variable {s w : State} {f : Fault}

theorem step_of_interruptCheck_error (h : interruptCheck (updateCountdowns s) = .error f) : step s = .fault f := by
  rw [step_eq_machineStep, machineStep, h]

theorem step_of_dispatched (h : interruptCheck (updateCountdowns s) = .ok (w, true)) :
    step s = .next (endStep w.params.cycIrq.cycles w) := by
  rw [step_eq_machineStep, machineStep, h]
  exact if_pos rfl

/-- The idle step of R134. -/
theorem step_of_idle (hhalted : s.halted = true) (hready : s.ready = 0) :
    step s = .next (endStep s.params.cycHalt.cycles (updateCountdowns s)) := by
  have hcheck : interruptCheck (updateCountdowns s) = .ok (updateCountdowns s, false) :=
    interruptCheck_of_ready_eq_zero (by rw [updateCountdowns_ready, hready])
  rw [step_eq_machineStep, machineStep, hcheck]
  simp [hhalted]

/-- The bytes an instruction is encoded by are fetched as that instruction (R135). -/
theorem fetchInstr_of_encode {i : Instr} (h : BytesAt s s.pc (encode i)) :
    fetchInstr s = .ok (i, { s with pc := s.pc + BitVec.ofNat 16 (encode i).length }) := by
  obtain ⟨_, hselects, hfills⟩ := opcode_selects i
  have hlength : s.pc + 1 + BitVec.ofNat 16 i.operands.length = s.pc + BitVec.ofNat 16 (encode i).length := by
    rw [encode, List.length_cons, Nat.add_comm, BitVec.ofNat_add, BitVec.add_assoc]
    rfl
  rw [fetchInstr_of_fills hselects hfills h, hlength]

/-- The step that fetches ends as the action of the instruction fetched ends (R130, R135). -/
theorem step_of_fetchInstr_ok {i : Instr} (hfetch : WillFetch s) (h : fetchInstr (fetchState s) = .ok (i, w)) :
    step s = endAction (w.cycles i.opcode (w.taken i)) (exec i w) := by
  rw [step_of_willFetch hfetch, runInstr, h]

end Step

/-! ## Taking an interrupt (R254) -/

/-- The state a dispatch of line `n` pushes PC from: awake, with IME and the pending bit of the line cleared. -/
def takeLine (s : State) (n : Nat) : State :=
  { s with halted := false, ime := false, iflag := s.iflag &&& ~~~(1#8 <<< n) }

theorem dispatch_awake (s : State) (n : Nat) :
    dispatch { s with halted := false } n = pushPcAndJump (takeLine s n) (vector n) := rfl

@[simp] theorem takeLine_pc (s : State) (n : Nat) : (takeLine s n).pc = s.pc := rfl
@[simp] theorem takeLine_sp (s : State) (n : Nat) : (takeLine s n).sp = s.sp := rfl
@[simp] theorem takeLine_params (s : State) (n : Nat) : (takeLine s n).params = s.params := rfl

section Dispatch

variable {s t : State} {n : Nat} (hime : (updateCountdowns s).ime = true)
  (hline : lowestLine (updateCountdowns s).ready = some n) (hn : n < 5)

include hime hline hn

theorem step_of_dispatch_error {f : Fault} (h : push16 (takeLine (updateCountdowns s) n) s.pc = .error f) :
    step s = .fault f := by
  have hdispatch : dispatch { updateCountdowns s with halted := false } n = .error f := by
    rw [dispatch_awake, pushPcAndJump_error (by rwa [takeLine_pc, updateCountdowns_pc])]
  apply step_of_interruptCheck_error
  rw [interruptCheck_of_line hime hline hn, hdispatch]
  rfl

theorem step_of_dispatch_ok (h : push16 (takeLine (updateCountdowns s) n) s.pc = .ok t) :
    step s = .next (endStep s.params.cycIrq.cycles { t with pc := vector n }) := by
  have hdispatch : dispatch { updateCountdowns s with halted := false } n = .ok { t with pc := vector n } := by
    rw [dispatch_awake]
    exact pushPcAndJump_ok.2 ⟨t, by rwa [takeLine_pc, updateCountdowns_pc], rfl⟩
  have hcheck : interruptCheck (updateCountdowns s) = .ok ({ t with pc := vector n }, true) := by
    rw [interruptCheck_of_line hime hline hn, hdispatch]
    rfl
  obtain ⟨-, -, -, -, -, -, -, -, -, -, hparams⟩ := push16_frame h
  rw [step_of_dispatched hcheck, show t.params = s.params by rw [hparams, takeLine_params, updateCountdowns_params]]

end Dispatch

/-! ## The frame of the end of a machine step -/

section EndStep

variable (c : Nat) (s : State)

@[simp] theorem endStep_reg8 (r : Reg8) : (endStep c s).reg8 r = s.reg8 r := by
  rw [endStep, mergeIrqIn_reg8, timerAdvance_eq]
  cases r <;> rfl

@[simp] theorem endStep_sp : (endStep c s).sp = s.sp := by simp [endStep]
@[simp] theorem endStep_flags : (endStep c s).flags = s.flags := by simp [endStep]
@[simp] theorem endStep_ie : (endStep c s).ie = s.ie := by simp [endStep]

end EndStep

/-! ## The obligations -/

/-- Settles O43: the idle step, and what the countdowns and the end of a step leave alone. -/
theorem haltedStepIsIdle : Obligations.HaltedStepIsIdle := by
  intro s hhalted hready
  have hstep := step_of_idle hhalted hready
  refine ⟨hstep, _, hstep, ?_⟩
  simp [SameRegs, hhalted]

/-- Settles O44: the check takes the lowest ready line, and the step goes on from the push of PC as a dispatch does. -/
theorem dispatchEntersVector : Obligations.DispatchEntersVector := by
  intro s n u hime hn hset hlowest w
  have hline : lowestLine (updateCountdowns s).ready = some n := lowestLine_eq_some.2 ⟨by omega, hset, hlowest⟩
  have hsp : s.sp = (takeLine u n).sp := by rw [takeLine_sp, updateCountdowns_sp]
  refine PushOutcome.congr_sp (s := takeLine u n) (pushOutcome_of_push16 (v := s.pc) ?_ ?_) hsp
  · exact fun f hf => step_of_dispatch_error hime hline hn hf
  · intro t ht
    obtain ⟨-, -, hpc, -⟩ := push16_frame ht
    have hstep := step_of_dispatch_ok hime hline hn ht
    rw [vector_eq] at hstep
    exact ⟨t, pushEffect_of_push16 ht, hpc, hstep⟩

/-- Settles O46: the check stops at a line that has no vector. -/
theorem undefinedLineIsFatal : Obligations.UndefinedLineIsFatal := by
  intro s n u hime hge hlt hset hlowest
  have hline : lowestLine u.ready = some n := lowestLine_eq_some.2 ⟨hlt, hset, hlowest⟩
  exact step_of_interruptCheck_error (interruptCheck_of_undefined_line hime hline hge)

/-- Settles O40: the fetch gives the instruction its bytes encode, and the step ends as its action does. -/
theorem stepRunsFetchedInstruction : Obligations.StepRunsFetchedInstruction := by
  intro s i hfetch hbytes u
  rw [← fetchState_pc s] at hbytes
  have hfetched : fetchInstr (fetchState s) = .ok (i, u) := by rw [fetchInstr_of_encode hbytes, fetchState_pc]
  rw [step_of_fetchInstr_ok hfetch hfetched]
  constructor
  · intro t ht
    rw [ht]
    rfl
  · intro f hf
    rw [hf]
    rfl

/-- Settles O41: the load of the opcode byte is the first thing a fetch does. -/
theorem fetchFromUnmappedIsFatal : Obligations.FetchFromUnmappedIsFatal := by
  intro s hfetch hunmapped
  rw [← fetchState_pc s] at hunmapped ⊢
  exact step_of_fetchInstr_error hfetch (fetchInstr_error (load8_error _ _ hunmapped))

/-- Settles O45: a ready line with IME 0 is one of the two ways to a fetch, and the fetch starts awake. -/
theorem wakeWithoutDispatch : Obligations.WakeWithoutDispatch := by
  intro s hready hime
  have hready' : (updateCountdowns s).ready ≠ 0 := by rwa [updateCountdowns_ready]
  exact step_of_willFetch (.inr ⟨hready', hime⟩)

end Sys2Proof.Machine
end

