-- ==== Sys2Proof/Proofs/Formats.lean ====
section
/-! What the encoding of an instruction fixes: how it is fetched (spec/40_engine_step.md R135, R136), the opcode byte and
then the operand bytes in their order, where the first load that fails ends the fetch; and its default cost
(spec/70_reset_and_hazards.md R307). -/

namespace Sys2Proof.Machine

/-! ## A fault among the operand bytes -/

section Operands

variable {s : State} {opcode : Byte} {template : Template} {i : Instr} {f : Fault}
  (hload : load8 s s.pc = .ok opcode) (hselects : decodeOpcode opcode = some template)

include hload hselects

/-- Every format with an operand loads the byte after the opcode next. -/
theorem fetchInstr_error_operand {v : Byte} {operands : List Byte} (hfills : Fills template (v :: operands) i)
    (hv : load8 s (s.pc + 1) = .error f) : fetchInstr s = .error f := by
  have hoperand : fetch8 { s with pc := s.pc + 1 } = .error f := fetch8_error hv
  cases hfills <;> simp only [fetchInstr, fetch16, fetch8_ok hload, ok_bind, hselects, hoperand, error_bind]

/-- The format with two operand bytes loads the byte after the first one last. -/
theorem fetchInstr_error_second_operand {lo v w : Byte} (hfills : Fills template [v, w] i)
    (hlo : load8 s (s.pc + 1) = .ok lo) (hhi : load8 s (s.pc + 2) = .error f) : fetchInstr s = .error f := by
  have hfirst : fetch8 { s with pc := s.pc + 1 } = .ok (lo, { s with pc := s.pc + 1 + 1 }) := fetch8_ok hlo
  have hsecond : fetch8 { s with pc := s.pc + 1 + 1 } = .error f := fetch8_error (by rwa [BitVec.add_assoc])
  cases hfills
  simp only [fetchInstr, fetch16, fetch8_ok hload, ok_bind, hselects, hfirst, hsecond, error_bind]

end Operands

/-! ## The formats, from the encoding -/

/-- The template the opcode byte of an encoding selects. -/
theorem selects_of_encode {opcode : Byte} {operands : List Byte} {i : Instr} (h : encode i = opcode :: operands) :
    ∃ template, decodeOpcode opcode = some template ∧ Fills template operands i := by
  obtain ⟨rfl, rfl⟩ := List.cons.inj h
  exact opcode_selects i

theorem fetchesOp_of_encode {opcode : Byte} {i : Instr} (h : encode i = [opcode]) : FetchesOp opcode i := by
  intro s hload
  have hbytes : BytesAt s s.pc (encode i) := h ▸ ⟨hload, trivial⟩
  rw [fetchInstr_of_encode hbytes, h]
  rfl

theorem fetchesByte_of_encode {opcode : Byte} {mk : Byte → Instr} (h : ∀ n, encode (mk n) = [opcode, n]) :
    FetchesByte opcode mk := by
  intro s hload
  refine ⟨fun n hn => ?_, fun f hf => ?_⟩
  · have hbytes : BytesAt s s.pc (encode (mk n)) := h n ▸ ⟨hload, hn, trivial⟩
    rw [fetchInstr_of_encode hbytes, h]
    rfl
  · obtain ⟨_, hselects, hfills⟩ := selects_of_encode (h 0)
    exact fetchInstr_error_operand hload hselects hfills hf

theorem fetchesWord_of_encode {opcode : Byte} {mk : Word → Instr}
    (h : ∀ nn, encode (mk nn) = [opcode, loByte nn, hiByte nn]) : FetchesWord opcode mk := by
  intro s hload
  obtain ⟨_, hselects, hfills⟩ := selects_of_encode (h 0)
  refine ⟨fun lo hi hlo hhi => ?_, fun f hf => fetchInstr_error_operand hload hselects hfills hf, fun lo f hlo hf =>
    fetchInstr_error_second_operand hload hselects hfills hlo hf⟩
  have hencode : encode (mk (join hi lo)) = [opcode, lo, hi] := by rw [h, loByte_join, hiByte_join]
  have hbytes : BytesAt s s.pc (encode (mk (join hi lo))) := by
    rw [hencode]
    exact ⟨hload, hlo, by rwa [BitVec.add_assoc], trivial⟩
  rw [fetchInstr_of_encode hbytes, hencode]
  rfl

/-! ## The default cost, from the encoding -/

/-- The cost is that of the opcode byte, whatever the operands. -/
theorem defaultCost_of_encode {opcode : Byte} {operands : List Byte} {i : Instr} {taken notTaken : Nat}
    (h : encode i = opcode :: operands)
    (hcost : defaultCycles opcode true = taken ∧ defaultCycles opcode false = notTaken) :
    DefaultCost i taken notTaken := by
  obtain ⟨rfl, -⟩ := List.cons.inj h
  exact hcost

end Sys2Proof.Machine
end

