-- ==== Sys2Proof/Proofs/Loads.lean ====
section
/-! The loads (spec/41_loads.md). Each shared operation has its effect and its frame once; a row then takes its fetch
and its cost from its encoding, and its meaning from the equation of its form. -/

namespace Sys2Proof.Machine

/-! ## Writes of registers -/

/-- All that a write of a general register does, as the statements about single instructions say it. -/
theorem setReg8_effect (s : State) (r : Reg8) (v : Byte) :
    (s.setReg8 r v).reg8 r = v ∧ (s.setReg8 r v).flags = s.flags ∧ (s.setReg8 r v).pc = s.pc ∧
    RegisterFrame [r] s (s.setReg8 r v) := by
  have hother : SameRegs [r] s (s.setReg8 r v) := fun r' hr' => setReg8_reg8_other s r r' v (by simpa using hr')
  simp [RegisterFrame, hother, SameHidden, SameDevices, SameMemory]

theorem sameRegs_setReg8_setReg8 (s : State) (r r' : Reg8) (v v' : Byte) :
    SameRegs [r, r'] s ((s.setReg8 r v).setReg8 r' v') := by
  intro x hx
  obtain ⟨hr, hr'⟩ : x ≠ r ∧ x ≠ r' := by simpa using hx
  rw [setReg8_reg8_other _ _ _ _ hr', setReg8_reg8_other _ _ _ _ hr]

/-- The general registers the destination of `ld rr,nn` is made of (R102). -/
def pairRegs (p : Pair) : List Reg8 :=
  match p with
  | .bc => [.b, .c]
  | .de => [.d, .e]
  | .hl => [.h, .l]
  | .sp => []

/-- A write of a pair leaves the general registers outside it alone. -/
theorem sameRegs_setPair (s : State) (p : Pair) (v : Word) : SameRegs (pairRegs p) s (s.setPair p v) := by
  cases p with
  | bc => exact sameRegs_setReg8_setReg8 s .b .c (hiByte v) (loByte v)
  | de => exact sameRegs_setReg8_setReg8 s .d .e (hiByte v) (loByte v)
  | hl => exact sameRegs_setReg8_setReg8 s .h .l (hiByte v) (loByte v)
  | sp =>
    intro r _
    cases r <;> rfl

/-- A write of a pair or of SP leaves everything but registers alone. -/
theorem setPair_frame (s : State) (p : Pair) (v : Word) :
    SameHidden s (s.setPair p v) ∧ SameDevices s (s.setPair p v) ∧ SameMemory s (s.setPair p v) := by
  simp [SameHidden, SameDevices, SameMemory]

theorem setPair_sp_of_ne (s : State) (p : Pair) (v : Word) (hp : p ≠ .sp) : (s.setPair p v).sp = s.sp := by
  cases p with
  | bc | de | hl => rfl
  | sp => exact absurd rfl hp

/-- All that a write of a pair of general registers leaves alone. -/
theorem registerFrame_setPair (s : State) (p : Pair) (v : Word) (hp : p ≠ .sp) :
    RegisterFrame (pairRegs p) s (s.setPair p v) :=
  ⟨sameRegs_setPair s p v, setPair_sp_of_ne s p v hp, setPair_frame s p v⟩

/-! ## Accesses to memory -/

/-- An instruction whose meaning is `loadRegMem` loads from its address: the two cases are those of `load8`. -/
theorem loadsFrom_of_exec {i : Instr} {dst : Reg8} {address : State → Word}
    (h : ∀ s, exec i s = loadRegMem dst (address s) s) : LoadsFrom i dst address := by
  intro s
  rw [h]
  refine ⟨fun hmapped => ?_, fun hunmapped => ?_⟩
  · obtain ⟨v, hv⟩ := (load8_ok_iff s (address s)).2 hmapped
    exact ⟨v, s.setReg8 dst v, hv, loadRegMem_eq_next.2 ⟨v, hv, rfl⟩, setReg8_effect s dst v⟩
  · rw [loadRegMem, load8_error s _ hunmapped, error_bind, finish_error]

/-- An instruction whose meaning is `storeMem` stores to its address: the two cases are those of `store8`. -/
theorem storesTo_of_exec {i : Instr} {address : State → Word} {value : State → Byte}
    (h : ∀ s, exec i s = storeMem (address s) (value s) s) : StoresTo i address value := by
  intro s
  rw [h, storeMem]
  refine ⟨fun hmapped => ?_, fun hunmapped => ?_⟩
  · obtain ⟨t, ht⟩ := store8_of_storeMapped hmapped s (value s)
    obtain ⟨-, -, hpc, -⟩ := store8_frame ht
    exact ⟨t, (finish_eq_next _ _).2 ht, hpc, storeEffect_of_store8 ht⟩
  · rw [store8_error s _ _ hunmapped, finish_error]

/-! ## Default costs of the families -/

theorem defaultCost_ldReg (dst src : Reg8) : DefaultCost (.ldReg dst src) 4 4 :=
  defaultCost_of_encode (encode_ldReg dst src) (by cases dst <;> cases src <;> decide)

theorem defaultCost_ldRegAtHl (dst : Reg8) : DefaultCost (.ldRegAtHl dst) 8 8 :=
  defaultCost_of_encode (encode_ldRegAtHl dst) (by cases dst <;> decide)

theorem defaultCost_ldAtHlReg (src : Reg8) : DefaultCost (.ldAtHlReg src) 8 8 :=
  defaultCost_of_encode (encode_ldAtHlReg src) (by cases src <;> decide)

theorem defaultCost_ldRegN (dst : Reg8) (n : Byte) : DefaultCost (.ldRegN dst n) 8 8 :=
  defaultCost_of_encode (encode_ldRegN dst n) (by cases dst <;> decide)

theorem defaultCost_ldPairNn (p : Pair) (nn : Word) : DefaultCost (.ldPairNn p nn) 12 12 :=
  defaultCost_of_encode (encode_ldPairNn p nn) (by cases p <;> decide)

/-! ## The obligations -/

/-- Settles O8: the value written is read from the state before the write. -/
theorem loadRegisterFromRegister : Obligations.LoadRegisterFromRegister := fun dst src =>
  ⟨fetchesOp_of_encode (encode_ldReg dst src), defaultCost_ldReg dst src, fun s =>
    ⟨s.setReg8 dst (s.reg8 src), exec_ldReg s dst src, setReg8_effect s dst (s.reg8 src)⟩⟩

/-- Settles O9: a load from HL, which is read before the destination is written. -/
theorem loadRegisterFromByteAtHl : Obligations.LoadRegisterFromByteAtHl := fun dst =>
  ⟨fetchesOp_of_encode (encode_ldRegAtHl dst), defaultCost_ldRegAtHl dst,
    loadsFrom_of_exec fun s => exec_ldRegAtHl s dst⟩

/-- Settles O10: a store to HL of the register. -/
theorem storeRegisterAtHl : Obligations.StoreRegisterAtHl := fun src =>
  ⟨fetchesOp_of_encode (encode_ldAtHlReg src), defaultCost_ldAtHlReg src,
    storesTo_of_exec fun s => exec_ldAtHlReg s src⟩

/-- Settles O11: both rows are loads of `A`, one from BC and one from DE. -/
theorem loadAThroughPair : Obligations.LoadAThroughPair :=
  ⟨⟨fetchesOp_of_encode rfl, ⟨rfl, rfl⟩, loadsFrom_of_exec fun _ => rfl⟩,
   ⟨fetchesOp_of_encode rfl, ⟨rfl, rfl⟩, loadsFrom_of_exec fun _ => rfl⟩⟩

/-- Settles O12: both rows are stores of `A`, one to BC and one to DE. -/
theorem storeAThroughPair : Obligations.StoreAThroughPair :=
  ⟨⟨fetchesOp_of_encode rfl, ⟨rfl, rfl⟩, storesTo_of_exec fun _ => rfl⟩,
   ⟨fetchesOp_of_encode rfl, ⟨rfl, rfl⟩, storesTo_of_exec fun _ => rfl⟩⟩

/-- Settles O13: the operand byte is the value written. -/
theorem loadRegisterImmediate : Obligations.LoadRegisterImmediate := fun dst =>
  ⟨fetchesByte_of_encode (encode_ldRegN dst), fun n => ⟨defaultCost_ldRegN dst n, fun s =>
    ⟨s.setReg8 dst n, exec_ldRegN s dst n, setReg8_effect s dst n⟩⟩⟩

/-- Settles O14: a store to HL of the operand byte the fetch has loaded. -/
theorem storeImmediateAtHl : Obligations.StoreImmediateAtHl :=
  have hencode (n : Byte) : encode (.ld__hl__n n) = [0x36, n] := rfl
  ⟨fetchesByte_of_encode hencode, fun n => ⟨defaultCost_of_encode (hencode n) (by decide),
    storesTo_of_exec fun _ => rfl⟩⟩

/-- The fields x, y, z of `encode_ldPairNn` are the pattern 00pp0001 of R108. -/
theorem fetchesWord_ldPairNn (p : Pair) : FetchesWord (0#2 ++ ldPairCode p ++ 1#4) (Instr.ldPairNn p) := by
  have hfields : 0#2 ++ ldPairCode p ++ 1#4 = 0#2 ++ (ldPairCode p ++ 0#1) ++ 1#3 := by cases p <;> rfl
  exact hfields ▸ fetchesWord_of_encode (encode_ldPairNn p)

/-- Settles O15: the write of the pair, whose frame for SP differs only in what it says of SP itself. -/
theorem loadPairImmediate : Obligations.LoadPairImmediate :=
  ⟨fetchesWord_ldPairNn, fun nn => ⟨fun p => defaultCost_ldPairNn p nn, fun s =>
    ⟨⟨s.setPair .bc nn, rfl, rfl, rfl, rfl, rfl, registerFrame_setPair s .bc nn nofun⟩,
     ⟨s.setPair .de nn, rfl, rfl, rfl, rfl, rfl, registerFrame_setPair s .de nn nofun⟩,
     ⟨s.setPair .hl nn, rfl, rfl, rfl, rfl, rfl, registerFrame_setPair s .hl nn nofun⟩,
     ⟨s.setPair .sp nn, rfl, rfl, rfl, rfl, sameRegs_setPair s .sp nn, setPair_frame s .sp nn⟩⟩⟩⟩

/-- Settles O16: a write of SP, as that of `ld sp,nn`. -/
theorem loadSpFromHl : Obligations.LoadSpFromHl :=
  ⟨fetchesOp_of_encode rfl, ⟨rfl, rfl⟩, fun s =>
    ⟨s.setPair .sp s.hl, rfl, rfl, rfl, rfl, sameRegs_setPair s .sp s.hl, setPair_frame s .sp s.hl⟩⟩

end Sys2Proof.Machine
end

