-- ==== Sys2Proof/Proofs/Alu.lean ====
section
/-! The nine rows of an ALU operation taken together (spec/42_arithmetic.md, spec/43_logic.md): fetch, cost and operand come
from the form of the row, so a statement about the rows is one about what the operation makes of its operand. -/

namespace Sys2Proof.Machine

/-! ## Default costs of the families -/

theorem defaultCost_aluReg (op : AluOp) (r : Reg8) : DefaultCost (op.reg r) 4 4 :=
  defaultCost_of_encode (encode_aluReg op r) (by cases op <;> cases r <;> decide)

theorem defaultCost_aluAtHl (op : AluOp) : DefaultCost op.atHl 8 8 :=
  defaultCost_of_encode (encode_aluAtHl op) (by cases op <;> decide)

theorem defaultCost_aluN (op : AluOp) (n : Byte) : DefaultCost (op.imm n) 8 8 :=
  defaultCost_of_encode (encode_aluN op n) (by cases op <;> decide)

/-! ## The rows, from the effect of the operation -/

/-- An instruction whose meaning is `withByteAtHl` has its effect at the byte at HL: the two cases are those of `load8`. -/
theorem onByteAtHl_of_exec {i : Instr} {f : Byte → State → State} {effect : Byte → State → State → Prop}
    (hexec : ∀ s, exec i s = withByteAtHl f s) (heffect : ∀ v s, effect v s (f v s)) : OnByteAtHl i effect := by
  intro s
  rw [hexec]
  refine ⟨fun hmapped => ?_, fun hunmapped => ?_⟩
  · obtain ⟨v, hv⟩ := (load8_ok_iff s s.hl).2 hmapped
    exact ⟨v, f v s, hv, withByteAtHl_eq_next.2 ⟨v, hv, rfl⟩, heffect v s⟩
  · rw [withByteAtHl, load8_error s _ hunmapped, error_bind, finish_error]

/-- The opcode patterns are 10yyyrrr, 10yyy110 and 11yyy110 (R108), with y the code of the operation. -/
theorem aluRows_of_effect (op : AluOp) {effect : Byte → State → State → Prop}
    (h : ∀ v s, effect v s (op.apply v s)) :
    AluRows (2#2 ++ aluCode op) (3#2 ++ aluCode op ++ 6#3) op.reg op.atHl op.imm effect :=
  ⟨fun r => ⟨fetchesOp_of_encode (encode_aluReg op r), defaultCost_aluReg op r⟩,
    fetchesOp_of_encode (encode_aluAtHl op), defaultCost_aluAtHl op,
    fetchesByte_of_encode (encode_aluN op), defaultCost_aluN op,
    fun r s => ⟨op.apply (s.reg8 r) s, exec_aluReg s op r, h (s.reg8 r) s⟩,
    onByteAtHl_of_exec (fun s => exec_aluAtHl s op) h,
    fun n s => ⟨op.apply n s, exec_aluN s op n, h n s⟩⟩

/-! ## What an operation leaves alone -/

theorem registerFrame_refl (s : State) : RegisterFrame [] s s :=
  ⟨fun _ _ => rfl, rfl, by simp [SameHidden], by simp [SameDevices], fun _ => rfl⟩

/-- No clause of the frame reads the flags, so a write of them keeps it. -/
theorem RegisterFrame.withFlags {but : List Reg8} {s t : State} (h : RegisterFrame but s t) (flags : Flags) :
    RegisterFrame but s { t with flags := flags } := h

theorem registerFrame_a_flags (s : State) (a : Byte) (flags : Flags) :
    RegisterFrame [.a] s { s with a := a, flags := flags } := by
  obtain ⟨-, -, -, hframe⟩ := setReg8_effect s .a a
  exact hframe.withFlags flags

end Sys2Proof.Machine
end

