-- ==== Sys2Proof/Proofs/Arithmetic.lean ====
section
/-! The arithmetic (spec/42_arithmetic.md): what `Add8` and `Sub8` compute, in natural numbers, and the rows of add,
subtract and compare. -/

namespace Sys2Proof.Machine

/-! ## The flags of the operations (R170, R171) -/

/-- The sum is 0 modulo 256 exactly where the result byte is 0. -/
theorem add8_z_iff (a x : Byte) : (add8 a x).flags.z = true ↔ (add8 a x).result = 0 := by
  simp [add8, ← BitVec.toNat_inj]

/-- The difference of two bytes is a multiple of 256 only where it is 0. -/
theorem sub8_z_iff (a x : Byte) : (sub8 a x).flags.z = true ↔ a = x := by
  have ha := a.isLt
  have hx := x.isLt
  simp only [sub8, beq_iff_eq, ← BitVec.toNat_inj]
  omega

/-- The subtract and the compare write one and the same flags. -/
theorem subFlags_of_flags_eq {v : Byte} {s t : State} (h : t.flags = (sub8 s.a v).flags) : SubFlags v s t := by
  refine ⟨h ▸ sub8_z_iff s.a v, ?_, ?_, ?_⟩ <;> simp [h, sub8]

/-! ## The effect of each operation -/

theorem addA_effect (v : Byte) (s : State) : AddEffect v s (addA v s) := by
  refine ⟨?_, add8_z_iff s.a v, rfl, ?_, ?_, rfl, registerFrame_a_flags s _ _⟩ <;> simp [addA, add8]

theorem subA_effect (v : Byte) (s : State) : SubEffect v s (subA v s) := by
  refine ⟨?_, subFlags_of_flags_eq rfl, rfl, registerFrame_a_flags s _ _⟩
  simp only [subA, sub8, BitVec.toNat_ofInt]
  omega

theorem cpA_effect (v : Byte) (s : State) : CompareEffect v s (cpA v s) :=
  ⟨subFlags_of_flags_eq rfl, rfl, (registerFrame_refl s).withFlags _⟩

/-! ## The obligations -/

/-- Settles O17: the ALU rows with y = 0, by the effect of `addA`. -/
theorem addWritesSumAndFlags : Obligations.AddWritesSumAndFlags := aluRows_of_effect .add addA_effect

/-- Settles O18: the ALU rows with y = 2, by the effect of `subA`. -/
theorem subtractWritesDifferenceAndFlags : Obligations.SubtractWritesDifferenceAndFlags :=
  aluRows_of_effect .sub subA_effect

/-- Settles O19: the ALU rows with y = 7, by the effect of `cpA`. -/
theorem compareWritesOnlyFlags : Obligations.CompareWritesOnlyFlags := aluRows_of_effect .cp cpA_effect

end Sys2Proof.Machine
end

