-- ==== Sys2Proof/Proofs/Logic.lean ====
section
/-! The logic (spec/43_logic.md): what the exclusive or makes of its operand, and its rows. -/

namespace Sys2Proof.Machine

/-- The zero flag is read from the result byte (R190). -/
theorem xor8_z_iff (a x : Byte) : (xor8 a x).flags.z = true ↔ (xor8 a x).result = 0 := beq_iff_eq

theorem xorA_effect (v : Byte) (s : State) : XorEffect v s (xorA v s) :=
  ⟨rfl, xor8_z_iff s.a v, rfl, rfl, rfl, rfl, registerFrame_a_flags s _ _⟩

/-- Settles O20: the ALU rows with y = 5, by the effect of `xorA`. -/
theorem xorWritesResultAndClearsFlags : Obligations.XorWritesResultAndClearsFlags := aluRows_of_effect .xor xorA_effect

end Sys2Proof.Machine
end

