-- ==== Sys2Proof/Proofs/Stack.lean ====
section
/-! Push, call, return and restart (spec/44_stack_call_return.md): the outcome of each shared operation once, from which the
rows follow; and what a return makes of the state a push into RAM leaves. -/

namespace Sys2Proof.Machine

/-! ## Rows that push -/

section Push

variable {s t : State} {v : Word}

theorem PushOutcome.imp {r : Host.Outcome State Fault Refusal} {good good' : Prop} (h : PushOutcome s r good)
    (himp : good → good') : PushOutcome s r good' :=
  have ⟨hgood, hfault⟩ := h
  ⟨fun hlo hhi => himp (hgood hlo hhi), hfault⟩

/-- No clause of the effect reads PC after the push. -/
theorem PushEffect.withPc (h : PushEffect v s t) (pc : Word) : PushEffect v s { t with pc := pc } := h

theorem pushOutcome_finish_push16 (s : State) (v : Word) :
    PushOutcome s (finish (push16 s v)) (∃ t, finish (push16 s v) = .next t ∧ t.pc = s.pc ∧ PushEffect v s t) := by
  refine pushOutcome_of_push16 (v := v) (fun f hf => by rw [hf, finish_error]) fun t ht => ?_
  obtain ⟨-, -, hpc, -⟩ := push16_frame ht
  exact ⟨t, (finish_eq_next _ _).2 ht, hpc, pushEffect_of_push16 ht⟩

theorem pushOutcome_finish_pushPcAndJump (s : State) (target : Word) :
    PushOutcome s (finish (pushPcAndJump s target))
      (∃ t, finish (pushPcAndJump s target) = .next t ∧ t.pc = target ∧ PushEffect s.pc s t) := by
  refine pushOutcome_of_push16 (v := s.pc) (fun f hf => by rw [pushPcAndJump_error hf, finish_error]) fun t ht => ?_
  have hjump : pushPcAndJump s target = .ok { t with pc := target } := pushPcAndJump_ok.2 ⟨t, ht, rfl⟩
  exact ⟨_, (finish_eq_next _ _).2 hjump, rfl, (pushEffect_of_push16 ht).withPc target⟩

end Push

/-! ## Rows that return -/

/-- `r` is the completion of a return from `s` to the address whose bytes on the stack are `lo` and `hi`: PC and SP move,
and nothing else (R201, R204). -/
def ReturnsTo (s : State) (r : Host.Outcome State Fault Refusal) (lo hi : Byte) : Prop :=
  ∃ t, r = .next t ∧ t.pc = join hi lo ∧ t.sp = s.sp + 2 ∧ t.flags = s.flags ∧
    SameRegs [] s t ∧ SameHidden s t ∧ SameDevices s t ∧ SameMemory s t

section Return

variable {s : State}

theorem returnFromStack_error_low (hlo : ¬ LoadMapped s s.sp) :
    returnFromStack s = .error (.unmapped s.sp .load) := by
  simp only [returnFromStack, pop16, load16, load8_error s _ hlo, error_bind]

theorem returnFromStack_error_high (hlo : LoadMapped s s.sp) (hhi : ¬ LoadMapped s (s.sp + 1)) :
    returnFromStack s = .error (.unmapped (s.sp + 1) .load) := by
  obtain ⟨lo, hlo⟩ := (load8_ok_iff s s.sp).2 hlo
  simp only [returnFromStack, pop16, load16, hlo, ok_bind, load8_error s _ hhi, error_bind]

theorem returnsTo_finish_returnFromStack {lo hi : Byte} (hlo : load8 s s.sp = .ok lo)
    (hhi : load8 s (s.sp + 1) = .ok hi) : ReturnsTo s (finish (returnFromStack s)) lo hi := by
  have hreturn := returnFromStack_ok.2 ⟨lo, hi, hlo, hhi, rfl⟩
  refine ⟨_, (finish_eq_next _ _).2 hreturn, rfl, rfl, rfl, fun r _ => by cases r <;> rfl, ?_, ?_,
    fun _ => rfl⟩
  · simp [SameHidden]
  · simp [SameDevices]

theorem popOutcome_finish_returnFromStack (s : State) :
    PopOutcome s (finish (returnFromStack s)) (ReturnsTo s (finish (returnFromStack s))) := by
  refine ⟨fun hlo hhi => ?_, fun hlo => ?_, fun hlo hhi => ?_⟩
  · obtain ⟨lo, hlo⟩ := (load8_ok_iff s s.sp).2 hlo
    obtain ⟨hi, hhi⟩ := (load8_ok_iff s (s.sp + 1)).2 hhi
    exact ⟨lo, hi, hlo, hhi, returnsTo_finish_returnFromStack hlo hhi⟩
  · rw [returnFromStack_error_low hlo, finish_error]
  · rw [returnFromStack_error_high hlo hhi, finish_error]

end Return

/-! ## Conditions (R207) -/

section Conditions

variable {s : State} {cc : Cond}

theorem cond_eq_true_iff : s.cond cc = true ↔ CondHolds cc s := by cases cc <;> simp [State.cond, CondHolds]

theorem taken_retCond (s : State) (cc : Cond) : s.taken (.retCond cc) = s.cond cc := by cases cc <;> rfl

theorem exec_retCond_of_condHolds (h : CondHolds cc s) : exec (.retCond cc) s = finish (returnFromStack s) := by
  rw [exec_retCond, retIf, if_pos (cond_eq_true_iff.2 h)]

theorem exec_retCond_of_not_condHolds (h : ¬ CondHolds cc s) : exec (.retCond cc) s = .next s := by
  rw [exec_retCond, retIf, if_neg (mt cond_eq_true_iff.1 h)]

end Conditions

/-! ## A return from what a push left in RAM -/

/-- Neither the echo alias nor the wrap at 0xFFFF makes two neighbouring addresses one byte. -/
theorem not_sameByte_succ (a : Word) : ¬ SameByte a (a + 1) := by
  have hsucc : (a + 1).toNat = (a.toNat + 1) % 65536 := BitVec.toNat_add ..
  rw [SameByte, cellKey_eq, cellKey_eq, hsucc]
  split_ifs <;> omega

section RoundTrip

variable {s t : State} {v : Word} (hlo : RamAddress (s.sp - 2)) (hhi : RamAddress (s.sp - 2 + 1))

include hlo hhi

/-- A push into RAM changes memory and SP alone. -/
theorem push16_ram (v : Word) : ∃ mem, push16 s v = .ok { s with sp := s.sp - 2, mem := mem } :=
  ⟨_, push16_ok.2 ⟨_, store8_ram _ _ hlo, store8_ram _ _ hhi⟩⟩

/-- The word pushed is there to be read, low byte first: the second store leaves the byte of the first alone. -/
theorem load8_push16_ram (h : push16 s v = .ok t) :
    load8 t (s.sp - 2) = .ok (loByte v) ∧ load8 t (s.sp - 2 + 1) = .ok (hiByte v) := by
  obtain ⟨m, hlow, hhigh⟩ := push16_ok.1 h
  refine ⟨?_, load8_store8_ram hhigh hhi _ rfl⟩
  rw [load8_store8_other hhigh _ (not_sameByte_succ _), load8_store8_ram hlow hlo _ rfl]

/-- A return from the state a push of `v` left, wherever PC has gone since, undoes the push and goes to `v`. -/
theorem returnFromStack_push16_ram (h : push16 s v = .ok t) (pc : Word) :
    returnFromStack { t with pc := pc } = .ok { t with sp := s.sp, pc := v } := by
  obtain ⟨-, -, -, hsp, -⟩ := push16_frame h
  obtain ⟨hlow, hhigh⟩ := load8_push16_ram hlo hhi h
  refine returnFromStack_ok.2 ⟨loByte v, hiByte v, ?_, ?_, ?_⟩
  · rwa [load8_with_pc, hsp]
  · rwa [load8_with_pc, hsp]
  · rw [join_hiByte_loByte, hsp, BitVec.sub_add_cancel]

/-- After a call with its stack in RAM and the return, memory alone differs. -/
theorem exec_call_then_ret_ram (nn : Word) : ∃ mem,
    exec (.call_nn nn) s = .next { s with sp := s.sp - 2, mem := mem, pc := nn } ∧
    exec .ret { s with sp := s.sp - 2, mem := mem, pc := nn } = .next { s with mem := mem } := by
  obtain ⟨mem, hpush⟩ := push16_ram hlo hhi s.pc
  have hcall : pushPcAndJump s nn = .ok { s with sp := s.sp - 2, mem := mem, pc := nn } :=
    pushPcAndJump_ok.2 ⟨_, hpush, rfl⟩
  have hret := returnFromStack_push16_ram hlo hhi hpush nn
  exact ⟨mem, (finish_eq_next _ _).2 hcall, (finish_eq_next _ _).2 hret⟩

end RoundTrip

/-! ## Opcodes and default costs of the families -/

/-- The fields x, y, z of `encode_pushPair` are the pattern 11pp0101 of R108. -/
theorem fetchesOp_pushPair (p : PushPair) : FetchesOp (0b11#2 ++ pushCode p ++ 5#4) (.pushPair p) := by
  have hfields : 0b11#2 ++ pushCode p ++ 5#4 = 3#2 ++ (pushCode p ++ 0#1) ++ 5#3 := by cases p <;> rfl
  exact hfields ▸ fetchesOp_of_encode (encode_pushPair p)

/-- The fields x, y, z of `encode_retCond` are the pattern 110cc000 of R108. -/
theorem fetchesOp_retCond (cc : Cond) : FetchesOp (0b110#3 ++ ccCode cc ++ 0#3) (.retCond cc) := by
  have hfields : 0b110#3 ++ ccCode cc ++ 0#3 = 3#2 ++ (0#1 ++ ccCode cc) ++ 0#3 := by cases cc <;> rfl
  exact hfields ▸ fetchesOp_of_encode (encode_retCond cc)

theorem defaultCost_pushPair (p : PushPair) : DefaultCost (.pushPair p) 16 16 :=
  defaultCost_of_encode (encode_pushPair p) (by cases p <;> decide)

theorem defaultCost_retCond (cc : Cond) : DefaultCost (.retCond cc) 20 8 :=
  defaultCost_of_encode (encode_retCond cc) (by cases cc <;> decide)

theorem defaultCost_rstTarget (k : BitVec 3) : DefaultCost (.rstTarget k) 16 16 :=
  defaultCost_of_encode (encode_rstTarget k) (by revert k; decide)

/-! ## The obligations -/

/-- Settles O21: a push of the pair, whose cases are those of its two stores. -/
theorem pushStoresPairBelowSp : Obligations.PushStoresPairBelowSp := by
  refine fun p => ⟨fetchesOp_pushPair p, defaultCost_pushPair p, fun s => ?_⟩
  intro v
  have hv : v = s.pushPair p := by cases p <;> rfl
  rw [hv, exec_pushPair]
  exact pushOutcome_finish_push16 s (s.pushPair p)

/-- Settles O22: PC, which the fetch has moved past the operand bytes, is what is pushed. -/
theorem callPushesReturnAddress : Obligations.CallPushesReturnAddress :=
  have hencode (nn : Word) : encode (.call_nn nn) = [0xCD, loByte nn, hiByte nn] := rfl
  ⟨fetchesWord_of_encode hencode, fun nn => ⟨defaultCost_of_encode (hencode nn) (by decide), fun s =>
    pushOutcome_finish_pushPcAndJump s nn⟩⟩

/-- Settles O23: a call whose target is the vector, which is below 64, so that the product does not wrap. -/
theorem restartPushesAndJumpsToVector : Obligations.RestartPushesAndJumpsToVector := by
  refine fun k => ⟨fetchesOp_of_encode (encode_rstTarget k), defaultCost_rstTarget k, fun s => ?_⟩
  have hvector : (8 * k.setWidth 16 : Word).toNat = 8 * k.toNat := by bv_omega
  rw [exec_rstTarget]
  refine (pushOutcome_finish_pushPcAndJump s (8 * k.setWidth 16)).imp ?_
  rintro ⟨t, hnext, hpc, hpush⟩
  exact ⟨t, hnext, hpc ▸ hvector, hpush⟩

/-- Settles O24: the row is the return from the stack. -/
theorem returnPopsPc : Obligations.ReturnPopsPc :=
  ⟨fetchesOp_of_encode rfl, ⟨rfl, rfl⟩, popOutcome_finish_returnFromStack⟩

/-- Settles O25: where the condition holds the row is `ret`, and where not it leaves the state as the fetch left it. -/
theorem conditionalReturn : Obligations.ConditionalReturn := by
  refine fun cc => ⟨fetchesOp_retCond cc, defaultCost_retCond cc, fun s => ⟨?_, fun hholds => ?_, fun hnot => ?_⟩⟩
  · rw [taken_retCond, cond_eq_true_iff]
  · rw [exec_retCond_of_condHolds hholds]
    exact popOutcome_finish_returnFromStack s
  · exact exec_retCond_of_not_condHolds hnot

/-- Settles O26: after the return the state is that before the call but for memory. -/
theorem callReturnRoundTrip : Obligations.CallReturnRoundTrip := by
  intro s nn hram
  obtain ⟨mem, hcall, hret⟩ := exec_call_then_ret_ram (hram _ (.inl rfl)) (hram _ (.inr rfl)) nn
  refine ⟨_, _, hcall, rfl, hret, rfl, rfl, rfl, fun r _ => by cases r <;> rfl, ?_⟩
  simp [SameHidden, SameDevices]

end Sys2Proof.Machine
end

