-- ==== Sys2Proof/Proofs/Jumps.lean ====
section
/-! The jumps (spec/45_jumps.md): where a relative jump goes, by integer arithmetic, and that a jump moves PC alone. -/

namespace Sys2Proof.Machine

/-! ## The relative jump -/

/-- No clause of the frame reads PC, so a write of it keeps it. -/
theorem RegisterFrame.withPc {but : List Reg8} {s t : State} (h : RegisterFrame but s t) (pc : Word) :
    RegisterFrame but s { t with pc := pc } := h

/-- The target of a relative jump (R220): the word that stands for the displacement in two's complement, and the sum with
PC, both agree with the integers mod 65536. -/
theorem relTarget_toNat (s : State) (e : Byte) :
    ((s.relTarget e).toNat : Int) = ((s.pc.toNat : Int) + e.toInt) % 65536 := by
  have hsext : ((e.signExtend 16).toNat : Int) = e.toInt % 65536 := by
    rw [BitVec.signExtend, BitVec.toNat_ofInt]
    exact Int.toNat_of_nonneg (Int.emod_nonneg _ (by decide))
  rw [State.relTarget, BitVec.toNat_add, Int.natCast_emod, Int.natCast_add, hsext]
  exact Int.add_emod_emod ..

theorem exec_jr_e_effect (e : Byte) (s : State) : ∃ t, exec (.jr_e e) s = .next t ∧
    (t.pc.toNat : Int) = ((s.pc.toNat : Int) + e.toInt) % 65536 ∧ t.flags = s.flags ∧ RegisterFrame [] s t :=
  ⟨{ s with pc := s.relTarget e }, rfl, relTarget_toNat s e, rfl, (registerFrame_refl s).withPc _⟩

/-! ## The conditional row -/

section Conditional

variable {s : State} {cc : Cond}

theorem taken_jrCond (s : State) (cc : Cond) (e : Byte) : s.taken (.jrCond cc e) = s.cond cc := by cases cc <;> rfl

theorem exec_jrCond_of_condHolds (h : CondHolds cc s) (e : Byte) : exec (.jrCond cc e) s = exec (.jr_e e) s := by
  rw [exec_jrCond, jrIf_eq, if_pos (cond_eq_true_iff.2 h)]
  rfl

theorem exec_jrCond_of_not_condHolds (h : ¬ CondHolds cc s) (e : Byte) : exec (.jrCond cc e) s = .next s := by
  rw [exec_jrCond, jrIf_eq, if_neg (mt cond_eq_true_iff.1 h)]

end Conditional

/-! ## Opcode and default cost of the conditional row -/

/-- The fields x, y, z of `encode_jrCond` are the pattern 001cc000 of R108. -/
theorem fetchesByte_jrCond (cc : Cond) : FetchesByte (0b001#3 ++ ccCode cc ++ 0#3) (Instr.jrCond cc) := by
  have hfields : 0b001#3 ++ ccCode cc ++ 0#3 = 0#2 ++ (1#1 ++ ccCode cc) ++ 0#3 := by cases cc <;> rfl
  exact hfields ▸ fetchesByte_of_encode (encode_jrCond cc)

theorem defaultCost_jrCond (cc : Cond) (e : Byte) : DefaultCost (.jrCond cc e) 12 8 :=
  defaultCost_of_encode (encode_jrCond cc e) (by cases cc <;> decide)

/-! ## The obligations -/

/-- Settles O27: a write of PC, whose value is the sum mod 65536 by `relTarget_toNat`. -/
theorem relativeJump : Obligations.RelativeJump :=
  have hencode (e : Byte) : encode (.jr_e e) = [0x18, e] := rfl
  ⟨fetchesByte_of_encode hencode, fun e => ⟨defaultCost_of_encode (hencode e) (by decide), exec_jr_e_effect e⟩⟩

/-- Settles O28: where the condition holds the row is `jr e`, and where not it leaves the state as the fetch left it. -/
theorem conditionalRelativeJump : Obligations.ConditionalRelativeJump := by
  refine fun cc => ⟨fetchesByte_jrCond cc, fun e => ⟨defaultCost_jrCond cc e, fun s =>
    ⟨?_, fun hholds => ?_, fun hnot => ?_⟩⟩⟩
  · rw [taken_jrCond, cond_eq_true_iff]
  · rw [exec_jrCond_of_condHolds hholds]
    exact exec_jr_e_effect e s
  · exact exec_jrCond_of_not_condHolds hnot e

/-- Settles O29: both rows write PC alone, one the operand word and one HL, which is the join of `H` and `L`. -/
theorem absoluteJumps : Obligations.AbsoluteJumps :=
  have hencode (nn : Word) : encode (.jp_nn nn) = [0xC3, loByte nn, hiByte nn] := rfl
  ⟨⟨fetchesWord_of_encode hencode, fun nn => ⟨defaultCost_of_encode (hencode nn) (by decide), fun s =>
      ⟨{ s with pc := nn }, rfl, rfl, rfl, (registerFrame_refl s).withPc nn⟩⟩⟩,
   ⟨fetchesOp_of_encode rfl, ⟨rfl, rfl⟩, fun s =>
      ⟨{ s with pc := s.hl }, rfl, join_toNat s.h s.l, rfl, (registerFrame_refl s).withPc s.hl⟩⟩⟩

end Sys2Proof.Machine
end

