-- ==== Sys2Proof/Proofs/System.lean ====
section
/-! The interrupt toggles and halt (spec/46_system.md): the countdown `di` or `ei` arms through the steps after it (R132), and
what a machine step makes of a pending enable (spec/70_reset_and_hazards.md R303). -/

namespace Sys2Proof.Machine

/-! ## The countdowns from 2 to the flip of IME -/

section Countdowns

variable {s : State}

theorem updateCountdowns_ime_of_ne_one (hei : s.eiCnt ≠ .one) (hdi : s.diCnt ≠ .one) :
    (updateCountdowns s).ime = s.ime := by rw [updateCountdowns_ime, if_neg hei, if_neg hdi]

theorem updateCountdowns_ime_of_eiCnt_one (hei : s.eiCnt = .one) : (updateCountdowns s).ime = true := by
  rw [updateCountdowns_ime, if_pos hei]

theorem updateCountdowns_ime_of_diCnt_one (hei : s.eiCnt ≠ .one) (hdi : s.diCnt = .one) :
    (updateCountdowns s).ime = false := by rw [updateCountdowns_ime, if_neg hei, if_pos hdi]

theorem updateCountdowns_eiCnt_of_two (hei : s.eiCnt = .two) : (updateCountdowns s).eiCnt = .one := by
  rw [updateCountdowns_eiCnt, hei]

theorem updateCountdowns_eiCnt_of_idle (hei : s.eiCnt = .idle) : (updateCountdowns s).eiCnt = .idle := by
  rw [updateCountdowns_eiCnt, hei]

theorem updateCountdowns_diCnt_of_two (hdi : s.diCnt = .two) : (updateCountdowns s).diCnt = .one := by
  rw [updateCountdowns_diCnt, hdi]

theorem updateCountdowns_twice_ime_of_eiCnt_two (hei : s.eiCnt = .two) :
    (updateCountdowns (updateCountdowns s)).ime = true :=
  updateCountdowns_ime_of_eiCnt_one (updateCountdowns_eiCnt_of_two hei)

theorem updateCountdowns_twice_ime_of_diCnt_two (hei : s.eiCnt = .idle) (hdi : s.diCnt = .two) :
    (updateCountdowns (updateCountdowns s)).ime = false :=
  updateCountdowns_ime_of_diCnt_one (by simp [updateCountdowns_eiCnt_of_idle hei]) (updateCountdowns_diCnt_of_two hdi)

end Countdowns

/-! ## The check with IME 0 -/

/-- With IME 0 the check dispatches nothing; a ready line only wakes the engine (R252). -/
theorem interruptCheck_of_ime_false {s : State} (hime : s.ime = false) :
    interruptCheck s = .ok ({ s with halted := s.halted && s.ready == 0 }, false) := by
  cases hline : lowestLine s.ready with
  | none =>
    have hready : s.ready = 0 := (lowestLine_eq_none _).1 hline
    simp [interruptCheck_of_ready_eq_zero hready, hready]
  | some n =>
    have hready : (s.ready == 0) = false := beq_false_of_ne fun h => by simp [(lowestLine_eq_none _).2 h] at hline
    simp only [interruptCheck, hline, hime, hready, Bool.and_false, Bool.false_eq_true, if_false]
    rfl

/-! ## `ei_cnt` over a machine step -/

@[simp] theorem endStep_eiCnt (c : Nat) (s : State) : (endStep c s).eiCnt = s.eiCnt := by simp [endStep]

theorem dispatch_eiCnt {s t : State} {n : Nat} (h : dispatch s n = .ok t) : t.eiCnt = s.eiCnt := by
  obtain ⟨m, hm, rfl⟩ := dispatch_ok.1 h
  obtain ⟨-, -, -, -, -, -, hei, -⟩ := push16_frame hm
  exact hei

/-- An instruction arms the enable or leaves its count alone. -/
theorem Change.eiCnt {s t : State} (h : Change s t) : t.eiCnt = s.eiCnt ∨ t.eiCnt = .two := by
  cases h with
  | enable => exact .inr rfl
  | reg r v => exact .inl (setReg8_eiCnt s r v)
  | pair p v => exact .inl (setPair_eiCnt s p v)
  | store a v _ h =>
    obtain ⟨-, -, -, -, -, -, hei, -⟩ := store8_frame h
    exact .inl hei
  | push v _ h | call target m h =>
    obtain ⟨-, -, -, -, -, -, hei, -⟩ := push16_frame h
    exact .inl hei
  | _ => exact .inl rfl

/-- A step leaves `ei_cnt` as the countdowns made it, or armed again. -/
theorem step_eiCnt {s t : State} (h : step s = .next t) : t.eiCnt = (updateCountdowns s).eiCnt ∨ t.eiCnt = .two := by
  rcases step_cases h with ⟨n, w, -, -, -, -, -, hd, rfl⟩ | ⟨-, -, rfl⟩ | ⟨-, i, u, w, hf, he, rfl⟩
  case inl => exact .inl (by rw [endStep_eiCnt, dispatch_eiCnt hd])
  case inr.inl => exact .inl (endStep_eiCnt _ _)
  case inr.inr =>
    have hu : u.eiCnt = (updateCountdowns s).eiCnt := by rw [fetchInstr_frame hf]; rfl
    rw [endStep_eiCnt, ← hu]
    exact (exec_change he).eiCnt

/-! ## The obligations -/

/-- Settles O48: from `ei_cnt` 2 the countdowns leave IME 0, so the step dispatches nothing, and they make `ei_cnt` 1, which
the step keeps or arms again. -/
theorem enableActsOneInstructionLate : Obligations.EnableActsOneInstructionLate := by
  intro s t hime hei hstep
  have hu : (updateCountdowns s).ime = false :=
    Bool.eq_false_of_not_eq_true (mt (eiCnt_of_ime_set hime) (by simp [hei]))
  refine ⟨?_, ?_, ?_, updateCountdowns_ime_of_eiCnt_one⟩
  · rw [interruptCheck_of_ime_false hu, updateCountdowns_halted, updateCountdowns_ready]
  · rcases step_ime hstep with ht | ⟨ht, -⟩
    · rw [ht, hu]
    · exact ht
  · rw [← updateCountdowns_eiCnt_of_two hei]
    exact step_eiCnt hstep

/-- Settles O30: each toggle writes its own countdown, and a countdown at 2 flips IME in the second update after. -/
theorem togglesArmCountdowns : Obligations.TogglesArmCountdowns :=
  ⟨⟨fetchesOp_of_encode rfl, ⟨rfl, rfl⟩, fun s => ⟨{ s with diCnt := .two }, rfl, rfl, rfl, rfl, rfl,
      fun hei => updateCountdowns_ime_of_ne_one hei (by simp),
      fun hei => updateCountdowns_twice_ime_of_diCnt_two hei rfl⟩⟩,
   ⟨fetchesOp_of_encode rfl, ⟨rfl, rfl⟩, fun s => ⟨{ s with eiCnt := .two }, rfl, rfl, rfl, rfl, rfl,
      fun hdi => updateCountdowns_ime_of_ne_one (by simp) hdi,
      updateCountdowns_twice_ime_of_eiCnt_two rfl⟩⟩⟩

/-- Settles O31: the meaning of the row is one write of `halted`. -/
theorem haltOnlySetsHalted : Obligations.HaltOnlySetsHalted :=
  ⟨fetchesOp_of_encode rfl, ⟨rfl, rfl⟩, fun s => ⟨{ s with halted := true }, rfl, rfl, rfl⟩⟩

end Sys2Proof.Machine
end

