-- ==== Sys2Proof/Proofs/RunEnds.lean ====
section
/-! The two ends of a run the spec gives a program: the fatal byte 0xCB (spec/46_system.md R233, spec/60_exceptions.md R242),
and the halted state with `IE` 0, which no later step leaves (spec/70_reset_and_hazards.md R304, R308). -/

namespace Sys2Proof.Machine

/-! ## Runs, step by step -/

theorem runsTo_zero (s : State) : RunsTo 0 s s := rfl

theorem run_succ_of_next {M : Host.Core} {k : Nat} {s u : M.State} (h : M.step s = .next u) :
    M.run (k + 1) s = M.run k u := by rw [Host.Core.run, h]

theorem runsTo_succ {k : Nat} {s u t : State} (hstep : step s = .next u) (hrun : RunsTo k u t) : RunsTo (k + 1) s t :=
  (run_succ_of_next (M := Sys2Proof.core) hstep).trans hrun

/-! ## The ended program -/

/-- `t` is an ended state with the general registers, flags, PC, SP, memory and parameters of `s` (R308). -/
def EndedAs (s t : State) : Prop :=
  t.ended ∧ t.pc = s.pc ∧ t.sp = s.sp ∧ t.flags = s.flags ∧ SameRegs [] s t ∧ t.mem = s.mem ∧ t.params = s.params

theorem EndedAs.refl {s : State} (h : s.ended) : EndedAs s s := ⟨h, rfl, rfl, rfl, fun _ _ => rfl, rfl, rfl⟩

theorem EndedAs.trans {s u t : State} (hsu : EndedAs s u) (hut : EndedAs u t) : EndedAs s t := by
  obtain ⟨-, hpc, hsp, hflags, hregs, hmem, hparams⟩ := hsu
  obtain ⟨hended, hpc', hsp', hflags', hregs', hmem', hparams'⟩ := hut
  exact ⟨hended, hpc'.trans hpc, hsp'.trans hsp, hflags'.trans hflags, fun r hr => (hregs' r hr).trans (hregs r hr),
    hmem'.trans hmem, hparams'.trans hparams⟩

/-- With `IE` 0 no pending line is ready, so the step of a halted engine idles, and an idle step writes no `IE`. -/
theorem step_of_ended {s : State} (h : s.ended) : ∃ t, step s = .next t ∧ EndedAs s t := by
  obtain ⟨hhalted, hie⟩ := h
  have hready : s.ie &&& s.iflag = 0 := by simp [hie]
  obtain ⟨-, t, hstep, hhalted', hpc, hsp, hflags, hregs, hmem, hie', hparams⟩ := haltedStepIsIdle s hhalted hready
  exact ⟨t, hstep, ⟨hhalted', hie'.trans hie⟩, hpc, hsp, hflags, hregs, hmem, hparams⟩

/-- Settles O60, by induction on the number of steps: each is an idle step from an ended state to one. -/
theorem endedProgramStaysEnded : Obligations.EndedProgramStaysEnded := by
  intro k
  induction k with
  | zero => exact fun s h => ⟨s, runsTo_zero s, EndedAs.refl h⟩
  | succ k ih =>
    intro s h
    obtain ⟨u, hstep, hu⟩ := step_of_ended h
    obtain ⟨t, hrun, ht⟩ := ih u hu.1
    exact ⟨t, runsTo_succ hstep hrun, hu.trans ht⟩

/-! ## The byte 0xCB -/

/-- Settles O32: the row is fetched as one byte, and its meaning is the fault, which the step hands on. -/
theorem prefixByteIsFatal : Obligations.PrefixByteIsFatal := by
  have hfetches : FetchesOp 0xCB .prefix_0xCB := fetchesOp_of_encode rfl
  refine ⟨hfetches, fun _ => rfl, fun s hfetch hload => ?_⟩
  rw [← fetchState_pc s] at hload
  rw [step_of_fetchInstr_ok hfetch (hfetches _ hload)]
  rfl

end Sys2Proof.Machine
end

