-- ==== Sys2Proof/Proofs/Timer.lean ====
section
/-! The timer (spec/60_exceptions.md R261 to R264): one turn of the counter's loop at a time, from the quotient form the model
gives it (log 16), and what an advance leaves alone. -/

namespace Sys2Proof.Machine

/-- The four rows of R264 are all there are. -/
theorem PeriodOf.eq_period {tac : Byte} {p : Nat} (h : PeriodOf tac p) : p = period tac := by
  have hrows : ∀ x : BitVec 2, x = 0 ∨ x = 1 ∨ x = 2 ∨ x = 3 := by decide
  obtain ⟨h0, h1, h2, h3⟩ := h
  rcases hrows (tac.extractLsb' 0 2) with hx | hx | hx | hx
  · rw [h0 hx, period, hx]; rfl
  · rw [h1 hx, period, hx]; rfl
  · rw [h2 hx, period, hx]; rfl
  · rw [h3 hx, period, hx]; rfl

/-! ## One turn of the counter's loop (R263) -/

theorem tick_of_full {tma v : Byte} (h : v = 0xFF) (line : Bool) : tick tma (v, line) = (tma, true) := if_pos h

theorem tick_of_not_full {tma v : Byte} (h : v ≠ 0xFF) (line : Bool) : tick tma (v, line) = (v + 1, line) := if_neg h

/-- What the loop makes of the state from `acc` accumulated cycles and a counter, in the quotient form of
`advanceCounter`. -/
def runCounter (s : State) (acc : Nat) (counter : Byte × Bool) : State × Bool :=
  let r := ticks s.tma (acc / period s.tac) counter
  ({ s with tima := r.1, timaAcc := acc % period s.tac }, r.2)

section Loop

variable {s : State} {acc : Nat}

theorem runCounter_of_lt (h : acc < period s.tac) (counter : Byte × Bool) :
    runCounter s acc counter = ({ s with tima := counter.1, timaAcc := acc }, counter.2) := by
  rw [runCounter, Nat.div_eq_of_lt h, Nat.mod_eq_of_lt h, ticks]

/-- One turn: a tick for one period of the accumulated cycles. -/
theorem runCounter_of_le (h : period s.tac ≤ acc) (counter : Byte × Bool) :
    runCounter s acc counter = runCounter s (acc - period s.tac) (tick s.tma counter) := by
  rw [runCounter, Nat.div_eq_sub_div (period_pos s.tac) h, Nat.mod_eq_sub_mod h, ticks, runCounter]

/-- A line once raised stays raised, and nothing else depends on it. -/
theorem runCounter_raised (v : Byte) : runCounter s acc (v, true) = ((runCounter s acc (v, false)).1, true) := by
  rw [runCounter, ticks_line]
  rfl

end Loop

section Counter

variable {s : State} {c : Nat}

theorem advanceCounter_of_disabled (h : s.tac.getLsbD 2 = false) : advanceCounter c s = (s, false) := by
  rw [advanceCounter, counterEnabled, h]
  rfl

variable (henabled : s.tac.getLsbD 2 = true)

include henabled

theorem advanceCounter_of_enabled : advanceCounter c s = runCounter s (s.timaAcc + c) (s.tima, false) := by
  rw [advanceCounter, counterEnabled, henabled]
  rfl

theorem advanceCounter_zero (v : Byte) (acc : Nat) :
    advanceCounter 0 { s with tima := v, timaAcc := acc } = runCounter s acc (v, false) :=
  advanceCounter_of_enabled (s := { s with tima := v, timaAcc := acc }) henabled

theorem advanceCounter_of_lt (h : s.timaAcc + c < period s.tac) :
    advanceCounter c s = ({ s with timaAcc := s.timaAcc + c }, false) := by
  rw [advanceCounter_of_enabled henabled, runCounter_of_lt h]

theorem advanceCounter_of_overflow (h : period s.tac ≤ s.timaAcc + c) (hfull : s.tima = 0xFF) : advanceCounter c s =
    ((advanceCounter 0 { s with tima := s.tma, timaAcc := s.timaAcc + c - period s.tac }).1, true) := by
  rw [advanceCounter_of_enabled henabled, runCounter_of_le h, tick_of_full hfull, runCounter_raised,
    advanceCounter_zero henabled]

theorem advanceCounter_of_tick (h : period s.tac ≤ s.timaAcc + c) (hfull : s.tima ≠ 0xFF) : advanceCounter c s =
    advanceCounter 0 { s with tima := s.tima + 1, timaAcc := s.timaAcc + c - period s.tac } := by
  rw [advanceCounter_of_enabled henabled, runCounter_of_le h, tick_of_not_full hfull, advanceCounter_zero henabled]

end Counter

/-- Settles O49: each case of a turn is an equation of its own. (The plain name is taken by the loop itself.) -/
theorem counterLoop_holds : Obligations.CounterLoop := by
  intro s c p hp
  obtain rfl := hp.eq_period
  exact ⟨advanceCounter_of_disabled, advanceCounter_of_lt, advanceCounter_of_overflow, advanceCounter_of_tick⟩

/-! ## The advance of the timer (R261, R262) -/

theorem timerAdvance_divc_toNat (c : Nat) (s : State) : (timerAdvance c s).divc.toNat = (s.divc.toNat + c) % 65536 := by
  rw [timerAdvance_divc, BitVec.toNat_add, BitVec.toNat_ofNat, Nat.add_mod_mod]

/-- The counter's part of an advance: its value and accumulator, and on an overflow pending bit 2. -/
theorem timerAdvance_eq_of_advanceCounter {c : Nat} {s : State} {r : State × Bool}
    (h : advanceCounter c (advanceDivider c s) = r) :
    timerAdvance c s = { advanceDivider c s with
      tima := r.1.tima, timaAcc := r.1.timaAcc, iflag := if r.2 then s.iflag ||| 0x04 else s.iflag } := by
  have hcounter := advanceCounter_eq c (advanceDivider c s)
  rw [h] at hcounter
  rw [timerAdvance, h]
  cases hr : r.2
  · exact hcounter
  · exact congrArg (fun t : State => { t with iflag := t.iflag ||| 0x04 }) hcounter

/-- Settles O50: the counter's advance follows the divider's, and an overflow is the one thing that writes `IF`. -/
theorem timerAdvancesAndSetsPendingLine2 : Obligations.TimerAdvancesAndSetsPendingLine2 := by
  intro s c
  refine ⟨timerAdvance_divc_toNat c s, ?_⟩
  rw [timerAdvance_divc]
  exact timerAdvance_eq_of_advanceCounter rfl

end Sys2Proof.Machine
end

