-- ==== Sys2Proof/Proofs/PendingLines.lean ====
section
/-! The pending lines (spec/60_exceptions.md R251, R253): which bits of `IF` an input sets, and which of the ready lines is
chosen. -/

namespace Sys2Proof.Machine

/-! ## The mask of an input -/

/-- The bits of the lines a device can assert. -/
theorem IrqIn.mask_lines (i : IrqIn) : i.mask.getLsbD 0 = i.vblank ∧ i.mask.getLsbD 1 = i.lcdStat ∧
    i.mask.getLsbD 3 = i.serial ∧ i.mask.getLsbD 4 = i.joypad := by
  obtain ⟨vblank, lcdStat, serial, joypad⟩ := i
  revert vblank lcdStat serial joypad
  decide

theorem IrqIn.mask_other (i : IrqIn) {k : Nat} (h : k ∉ [0, 1, 3, 4]) : i.mask.getLsbD k = false := by
  by_cases hk : k < 8
  · obtain ⟨vblank, lcdStat, serial, joypad⟩ := i
    have hbits : ∀ k < 8, k ∉ [0, 1, 3, 4] → ∀ vblank lcdStat serial joypad,
        (IrqIn.mask ⟨vblank, lcdStat, serial, joypad⟩).getLsbD k = false := by decide
    exact hbits k hk h ..
  · exact BitVec.getLsbD_of_ge _ _ (Nat.le_of_not_lt hk)

/-! ## The merge -/

theorem mergeIrqIn_of_nil {s : State} (h : s.irqIn = []) : mergeIrqIn s = s := by rw [mergeIrqIn, h]

theorem mergeIrqIn_iflag_of_cons {s : State} {i : IrqIn} {rest : List IrqIn} (h : s.irqIn = i :: rest) :
    (mergeIrqIn s).iflag = s.iflag ||| i.mask := by rw [mergeIrqIn, h]

/-! ## The obligations -/

/-- Settles O51: the merge is a bitwise or with the input's mask, which has the bits of the asserted lines alone. -/
theorem inputsSetPendingBits : Obligations.InputsSetPendingBits := by
  intro s
  refine ⟨mergeIrqIn_of_nil, fun i rest h => ?_⟩
  obtain ⟨hvblank, hlcdStat, hserial, hjoypad⟩ := i.mask_lines
  have hframe := mergeIrqIn_eq s
  rw [h, List.tail_cons] at hframe
  have hbit : ∀ k, (mergeIrqIn s).iflag.getLsbD k = (s.iflag.getLsbD k || i.mask.getLsbD k) := fun k => by
    rw [mergeIrqIn_iflag_of_cons h, BitVec.getLsbD_or]
  refine ⟨?_, ?_, ?_, ?_, fun k hk => ?_, hframe⟩
  · rw [hbit, hvblank]
  · rw [hbit, hlcdStat]
  · rw [hbit, hserial]
  · rw [hbit, hjoypad]
  · rw [hbit, i.mask_other hk, Bool.or_false]

/-- Settles O47: the search goes from line 0 up, so what it finds is the lowest ready line. -/
theorem lowestReadyLineWins : Obligations.LowestReadyLineWins := fun _ _ => lowestLine_eq_some

end Sys2Proof.Machine
end
